-- ==== Sys2Proof/Word.lean ====
section
/-! DEFINITION. The two word widths of the machine: a byte (registers, memory cells, timers) and a 16-bit word
(I, PC, stack entries, one instruction). Nothing in the machine is signed (00_scope.md R11). -/

namespace Sys2Proof

/-- A byte: a general register, a memory cell, a timer (10_state.md R21, R31, R42). -/
abbrev Byte := BitVec 8

/-- A 16-bit word: I, PC, a stack entry, an opcode (10_state.md R24, R25, R28; 30_encoding.md R80). -/
abbrev Word := BitVec 16

end Sys2Proof
end

