-- ==== Sys2Proof/Machine/Flags.lean ====
section
/-! DEFINITION. The values that six instructions write into VF as a flag, each 0 or 1 (10_state.md R22). -/

namespace Sys2Proof.Machine

/-- A flag as the byte VF receives. -/
def flagByte (b : Bool) : Byte := if b then 1#8 else 0#8

/-- Carry: the unsigned sum is above 255 (41_arithmetic_logic.md R127). -/
def carry (a b : Byte) : Byte := flagByte (decide (a.toNat + b.toNat > 255))

/-- Not-borrow: the minuend is at least the subtrahend (41_arithmetic_logic.md R128, R130). -/
def notBorrow (minuend subtrahend : Byte) : Byte := flagByte (decide (minuend.toNat ≥ subtrahend.toNat))

/-- The bit a right shift by one moves out, bit 0 (41_arithmetic_logic.md R129). -/
def shiftedOutRight (a : Byte) : Byte := flagByte (a.getLsbD 0)

/-- The bit a left shift by one moves out, bit 7 (41_arithmetic_logic.md R131). -/
def shiftedOutLeft (a : Byte) : Byte := flagByte (a.getLsbD 7)

end Sys2Proof.Machine
end

