-- ==== Sys2Proof/Machine/Grid.lean ====
section
/-! DEFINITION. The display buffer D (10_state.md R35): 32 rows of 64 one-bit cells, D[y][x]. -/

namespace Sys2Proof.Machine

/-- The grid, row by row from the top, each row from the left (10_state.md R35, assumption log 16). -/
abbrev Grid := Vector (Vector Bool 64) 32

/-- The cell D[y][x]. -/
def Grid.cell (d : Grid) (y : Fin 32) (x : Fin 64) : Bool := d[y.val][x.val]

/-- Invert the cell D[y][x] (44_display.md R172: the XOR of one set sprite bit). -/
def Grid.flip (d : Grid) (y : Fin 32) (x : Fin 64) : Grid :=
  d.set y.val (d[y.val].set x.val (!d[y.val][x.val]))

/-- The all-zero grid (44_display.md R171, 10_state.md R45). -/
def Grid.blank : Grid := Vector.replicate 32 (Vector.replicate 64 false)

end Sys2Proof.Machine
end

