-- ==== Sys2Proof/Config.lean ====
section
/-! DEFINITION. What is fixed for the machine (00_scope.md R6) and its one free value, the random byte.
The font table, a constant of the same kind (R7), is Sys2Proof.Config.font in Machine/Font.lean. -/

namespace Sys2Proof.Config

/-- MEM_SIZE: addresses 0 to 4095 exist (00_scope.md R6, 20_memory.md R51). -/
abbrev memSize : Nat := 4096

/-- PROG_BASE: where a program is loaded and where it starts (00_scope.md R6, R7; 10_state.md R45). -/
abbrev progBase : Nat := 0x200

/-- PROG_MAX: the largest program `load` takes (00_scope.md R6, 20_memory.md R60, R61). -/
abbrev progMax : Nat := 3584

/-- FREE VALUE. The byte that the `n`-th random instruction draws when the host has supplied none. It has no body:
"a byte the step takes from outside, under no law the model may rely on" (41_arithmetic_logic.md R133, decision
D25; assumption log 3). -/
opaque randByte : Nat → Byte

end Sys2Proof.Config
end

