-- ==== Sys2Proof/Machine/Memory.lean ====
section
/-! DEFINITION. The memory M (20_memory.md R50 to R52): 4096 bytes, held as the list of the cells that differ from
their reset contents. These operations check no bound; Machine/Ops.lean's accesses do, before they call them. -/

namespace Sys2Proof.Machine

/-- Memory as data: the cells that differ from the reset contents, by rising address (assumption log 6). -/
abbrev Memory := List Host.Cell

/-- What an unlisted address reads as: the reset contents of 10_state.md R45, the font at 0x000 to 0x04F and 0 above. -/
def Memory.unlisted (a : Nat) : Byte := Config.font.getD a 0#8

/-- The byte at address `a` (20_memory.md R52, after its check). -/
def Memory.read : Memory → Nat → Byte
  | [], a => Memory.unlisted a
  | c :: m, a => if c.1 = a then c.2 else Memory.read m a

/-- Drop the cell at `a`. -/
def Memory.erase : Memory → Nat → Memory
  | [], _ => []
  | c :: m, a => if c.1 = a then Memory.erase m a else c :: Memory.erase m a

/-- Insert or replace the cell at `a`, in address order. -/
def Memory.insert : Memory → Nat → Byte → Memory
  | [], a, b => [(a, b)]
  | c :: m, a, b =>
    if c.1 < a then c :: Memory.insert m a b
    else if c.1 = a then (a, b) :: m
    else (a, b) :: c :: m

/-- Write one byte (20_memory.md R52, after its check). Writing the reset contents removes the cell, so that equal
memories are equal lists. -/
def Memory.write (m : Memory) (a : Nat) (b : Byte) : Memory :=
  if b = Memory.unlisted a then Memory.erase m a else Memory.insert m a b

/-- Single-byte writes at ascending addresses (20_memory.md R65). -/
def Memory.writeBytes (m : Memory) (a : Nat) : List Byte → Memory
  | [] => m
  | b :: bs => Memory.writeBytes (Memory.write m a b) (a + 1) bs

/-- Single-byte reads at ascending addresses (20_memory.md R65). -/
def Memory.readBytes (m : Memory) (a : Nat) : Nat → List Byte
  | 0 => []
  | n + 1 => Memory.read m a :: Memory.readBytes m (a + 1) n

/-- The canonical form: addresses strictly rising, and no cell equal to its reset contents. -/
def Memory.wf : Memory → Bool
  | [] => true
  | c :: m => (c.2 != Memory.unlisted c.1) && m.all (fun d => decide (c.1 < d.1)) && Memory.wf m

/-- No cell is listed outside the address space (20_memory.md R51). -/
def Memory.inRange (m : Memory) : Bool := m.all (fun c => decide (c.1 < Config.memSize))

end Sys2Proof.Machine
end

