-- ==== Sys2Proof/Syntax.lean ====
section
/-! DEFINITION. The 35 instructions as syntax: one constructor per row of spec/opcode_table.json, in its order. -/

namespace Sys2Proof

/-- A register number, the X or Y field of an instruction: V0 to VF (00_scope.md R15, 30_encoding.md R83). -/
abbrev Reg := Fin 16

/-- VF, the register that six instructions use as the flag (10_state.md R22). -/
abbrev VF : Reg := 15

/-- V0, the register the computed jump adds (42_control_flow.md R149). -/
abbrev V0 : Reg := 0

/-- The instructions of 30_encoding.md R85. Operands are the fields of 00_scope.md R15: `x`, `y` registers,
`n` a 4-bit, `nn` an 8-bit and `nnn` a 12-bit immediate. The Y field of the two shifts is no operand (R129, R131). -/
inductive Instr where
  | cls
  | ret
  | sys (nnn : BitVec 12)
  | jp (nnn : BitVec 12)
  | call (nnn : BitVec 12)
  | seImm (x : Reg) (nn : Byte)
  | sneImm (x : Reg) (nn : Byte)
  | seReg (x y : Reg)
  | ldImm (x : Reg) (nn : Byte)
  | addImm (x : Reg) (nn : Byte)
  | ldReg (x y : Reg)
  | orReg (x y : Reg)
  | andReg (x y : Reg)
  | xorReg (x y : Reg)
  | addReg (x y : Reg)
  | subReg (x y : Reg)
  | shr (x : Reg)
  | subnReg (x y : Reg)
  | shl (x : Reg)
  | sneReg (x y : Reg)
  | ldI (nnn : BitVec 12)
  | jpV0 (nnn : BitVec 12)
  | rnd (x : Reg) (nn : Byte)
  | drw (x y : Reg) (n : BitVec 4)
  | skp (x : Reg)
  | sknp (x : Reg)
  | ldVxDt (x : Reg)
  | ldVxK (x : Reg)
  | ldDtVx (x : Reg)
  | ldStVx (x : Reg)
  | addI (x : Reg)
  | ldF (x : Reg)
  | ldB (x : Reg)
  | storeRegs (x : Reg)
  | loadRegs (x : Reg)
  deriving DecidableEq, Repr

end Sys2Proof
end

