-- ==== Sys2Proof/Machine/State.lean ====
section
/-! DEFINITION. The state of the machine: the twelve elements of 10_state.md R20, and three fields for signals of
00_scope.md R9; the reasons a step can stop; the state after reset. -/

namespace Sys2Proof.Machine

/-- The executor's mode (10_state.md R41). -/
inductive Mode where
  | running
  | waitingForKey
  deriving DecidableEq, Repr

/-- The result of a step, in the order of its codes 0 to 4 (60_exceptions.md R200). -/
inductive StepResult where
  | ok
  | unknownOpcode
  | memoryFault
  | stackOverflow
  | stackUnderflow
  deriving DecidableEq, Repr

/-- The machine's state. -/
structure State where
  /-- M, 4096 bytes (10_state.md R42). -/
  mem : Memory
  /-- V0 to VF (R21). -/
  v : Vector Byte 16
  /-- The index register I (R24). -/
  i : Word
  /-- The program counter (R25). -/
  pc : Word
  /-- The call stack's entries S[0] to S[15] (R28). -/
  stack : Vector Word 16
  /-- SP, how many entries are in use, 0 to 16 (R29; assumption log 9). -/
  sp : Fin 17
  /-- The delay timer (R31). -/
  dt : Byte
  /-- The sound timer (R32). -/
  st : Byte
  /-- The display buffer D (R35). -/
  display : Grid
  /-- The dirty flag (R37). -/
  dirty : Bool
  /-- The key latch K (R39). -/
  keys : Vector Bool 16
  /-- The executor's mode (R41). -/
  mode : Mode
  /-- Output: the result of the last step (00_scope.md R9, 60_exceptions.md R200). No step reads it. -/
  result : StepResult
  /-- Input: the random bytes the host has supplied and no CXNN has consumed, oldest first (00_scope.md R9). -/
  rands : List Byte
  /-- How many random bytes CXNN has consumed: where the free value Config.randByte is read next. The model's own. -/
  draws : Nat
  deriving DecidableEq, Repr

/-- The faults that end a step with its state unchanged (60_exceptions.md R201 to R203, R209). Each is safe: the
model stops where the hardware reports the same result on every further step (R219). -/
inductive Fault where
  /-- Raised by the fetch, DRW, LD B, LD [I] and LD Vx, [I] for an access at 4096 or above; `addr` is the first
  offending address (60_exceptions.md R201; assumption log 15). Safe. -/
  | memoryFault (addr : Nat)
  /-- Raised by CALL with a full stack (60_exceptions.md R202). Safe. -/
  | stackOverflow
  /-- Raised by RET with an empty stack (60_exceptions.md R203). Safe. -/
  | stackUnderflow
  deriving DecidableEq, Repr

/-- What the model gives no meaning to. -/
inductive Refusal where
  /-- Raised by exec alone, for an instruction that has no meaning yet. Safe. No arm answers it now. -/
  | notModelled (mnemonic : String)
  /-- Raised by the host event set_key with an index above 15, a violation of the host's contract (10_state.md
  R40, 60_exceptions.md R206). Safe. -/
  | keyIndexOutOfRange (index : Nat)
  /-- Raised by the host event load after the first step or after another load (20_memory.md R62). Safe. -/
  | loadOutsideWindow
  deriving DecidableEq, Repr

/-- The machine right after reset (10_state.md R45, 70_reset_and_hazards.md R230). Memory lists nothing: it holds its
reset contents. The fields result, rands and draws are no state of the spec's (assumption log 2, 3). -/
def State.reset : State where
  mem := []
  v := Vector.replicate 16 0#8
  i := 0#16
  pc := 0x200#16
  stack := Vector.replicate 16 0#16
  sp := 0
  dt := 0#8
  st := 0#8
  display := Grid.blank
  dirty := false
  keys := Vector.replicate 16 false
  mode := .running
  result := .ok
  rands := []
  draws := 0

end Sys2Proof.Machine
end

