-- ==== Sys2Proof/Machine/Ops.lean ====
section
/-! DEFINITION. The named operations over the state that every meaning is written with: register access, bounds-checked
memory ranges, the call stack, the keys, the random input, the timer tick, the completion words of a step, and what a
fault does. There is no trap entry and no return from a fault on this machine (60_exceptions.md R209, R210). -/

namespace Sys2Proof.Machine

/-- What one step answers. -/
abbrev StepOutcome := Host.Outcome State Fault Refusal

/-! ### Registers -/

/-- V[r] (00_scope.md R12, 10_state.md R21). -/
def State.getV (s : State) (r : Reg) : Byte := s.v[r.val]

/-- V[r] <- b. -/
def State.setV (s : State) (r : Reg) (b : Byte) : State := { s with v := s.v.set r.val b }

/-- V[x] <- b, then VF <- the flag: the order of 41_arithmetic_logic.md R120, so that the flag survives X = F. -/
def State.setVFlag (s : State) (x : Reg) (b : Byte) (flag : Byte) : State := (s.setV x b).setV VF flag

/-- Write V[k], V[k+1], … from a list of bytes (43_memory_index.md R166). -/
def setRegs (v : Vector Byte 16) (k : Nat) : List Byte → Vector Byte 16
  | [] => v
  | b :: bs => setRegs (v.setIfInBounds k b) (k + 1) bs

/-- The values of V0 to Vx, in order (43_memory_index.md R165). -/
def State.regsUpTo (s : State) (x : Reg) : List Byte := s.v.toList.take (x.val + 1)

/-- I <- w (10_state.md R24). -/
def State.setI (s : State) (w : Word) : State := { s with i := w }

/-- DT <- b (10_state.md R31). -/
def State.setDt (s : State) (b : Byte) : State := { s with dt := b }

/-- ST <- b (10_state.md R32). -/
def State.setSt (s : State) (b : Byte) : State := { s with st := b }

/-- mode <- m (10_state.md R41). -/
def State.setMode (s : State) (m : Mode) : State := { s with mode := m }

/-- D <- d, and the dirty flag is raised, as every clear and every draw does (10_state.md R37). -/
def State.setDisplay (s : State) (d : Grid) : State := { s with display := d, dirty := true }

/-- M <- m. -/
def State.setMem (s : State) (m : Memory) : State := { s with mem := m }

/-! ### Memory ranges -/

/-- The first offending address of a range that begins at `base` and runs past the end of memory (60_exceptions.md R201). -/
def faultAddr (base : Nat) : Nat := max base Config.memSize

/-- The check of the `n` addresses from `base` up, computed without wrap-around, before any of them is accessed
(20_memory.md R52, R53, R66). No address is checked when `n` is 0 (44_display.md R173 (a)). -/
def rangeFault (base n : Nat) : Option Fault :=
  if n = 0 ∨ base + n ≤ Config.memSize then none else some (.memoryFault (faultAddr base))

/-! ### Call stack (10_state.md R30) -/

/-- Push a return address, or stack overflow when all sixteen entries are in use. -/
def State.push (s : State) (a : Word) : Except Fault State :=
  if h : s.sp.val < 16 then
    .ok { s with stack := s.stack.set s.sp.val a h, sp := ⟨s.sp.val + 1, by omega⟩ }
  else .error .stackOverflow

/-- Pop the top entry, which stays in place (10_state.md R29), or stack underflow when none is in use. -/
def State.pop (s : State) : Except Fault (Word × State) :=
  if h : s.sp.val = 0 then .error .stackUnderflow
  else .ok (s.stack[s.sp.val - 1]'(by omega), { s with sp := ⟨s.sp.val - 1, by omega⟩ })

/-! ### Keys and the random input -/

/-- K[k], the core's `is_pressed` (10_state.md R40). -/
def State.isPressed (s : State) (k : Reg) : Bool := s.keys[k.val]

/-- The lowest pressed key, none when no key is pressed: the core's `any_pressed` (10_state.md R40, decision D13). -/
def State.anyPressed (s : State) : Option Reg := (List.finRange 16).find? s.isPressed

/-- The byte the next random instruction draws: the oldest the host has supplied, else a free value (41_arithmetic_logic.md
R133, assumption log 3). -/
def State.nextRand (s : State) : Byte :=
  match s.rands with
  | [] => Config.randByte s.draws
  | b :: _ => b

/-- Consume that byte: each execution of CXNN consumes one (41_arithmetic_logic.md R133). -/
def State.consumeRand (s : State) : State := { s with rands := s.rands.tail, draws := s.draws + 1 }

/-! ### Timers and outputs -/

/-- One timer's tick: down by 1 while nonzero (10_state.md R33). -/
def tickByte (t : Byte) : Byte := if t = 0#8 then 0#8 else t - 1#8

/-- `tick()` (10_state.md R33). -/
def State.tick (s : State) : State := { s with dt := tickByte s.dt, st := tickByte s.st }

/-- The output `sound_active` (10_state.md R36, decision D23). -/
def State.soundActive (s : State) : Bool := s.st != 0#8

/-! ### Completion words (00_scope.md R16, 40_step_cycle.md R104, R105, R107) -/

/-- The end of every completed step: the new PC, the result, then the tick. -/
def State.complete (s : State) (pc : Word) (r : StepResult) : State := ({ s with pc := pc, result := r }).tick

/-- `next`: PC <- PC + 2. -/
def finishNext (s : State) : StepOutcome := .next (s.complete (s.pc + 2#16) .ok)

/-- `skip`: PC <- PC + 4. -/
def finishSkip (s : State) : StepOutcome := .next (s.complete (s.pc + 4#16) .ok)

/-- `goto t`: PC <- t, no further + 2 and no check of the target. -/
def finishGoto (s : State) (t : Word) : StepOutcome := .next (s.complete t .ok)

/-- `hold`: PC unchanged, no tick, result Ok (40_step_cycle.md R105). -/
def finishHold (s : State) : StepOutcome := .next { s with result := .ok }

/-- A conditional skip (42_control_flow.md R150). -/
def finishSkipIf (c : Bool) (s : State) : StepOutcome := if c then finishSkip s else finishNext s

/-! ### Faults -/

/-- MemoryFault, StackOverflow and StackUnderflow: the step ends at once and the state is the one before it
(40_step_cycle.md R108, 60_exceptions.md R209; assumption log 1). -/
def raise (f : Fault) : StepOutcome := .fault f

/-- UnknownOpcode: reported, PC + 2 and the tick as of a no-op, and the machine goes on (60_exceptions.md R205). -/
def reportUnknown (s : State) : StepOutcome := .next (s.complete (s.pc + 2#16) .unknownOpcode)

end Sys2Proof.Machine
end

