-- ==== Sys2Proof/Machine/Arithmetic.lean ====
section
/-! DEFINITION. The meanings of 41_arithmetic_logic.md: loads, arithmetic, logic, shifts and the random byte. All
operands are read from the state before the step; a result is written before the flag (R120). None can fault. -/

namespace Sys2Proof.Machine

/-- LD Vx, nn, 6XNN (R121). -/
def execLdImm (x : Reg) (nn : Byte) (s : State) : StepOutcome := finishNext (s.setV x nn)

/-- ADD Vx, nn, 7XNN: modulo 256, no flag (R122). -/
def execAddImm (x : Reg) (nn : Byte) (s : State) : StepOutcome := finishNext (s.setV x (s.getV x + nn))

/-- LD Vx, Vy, 8XY0 (R123). -/
def execLdReg (x y : Reg) (s : State) : StepOutcome := finishNext (s.setV x (s.getV y))

/-- OR Vx, Vy, 8XY1: no flag (R124). -/
def execOrReg (x y : Reg) (s : State) : StepOutcome := finishNext (s.setV x (s.getV x ||| s.getV y))

/-- AND Vx, Vy, 8XY2: no flag (R125). -/
def execAndReg (x y : Reg) (s : State) : StepOutcome := finishNext (s.setV x (s.getV x &&& s.getV y))

/-- XOR Vx, Vy, 8XY3: no flag (R126). -/
def execXorReg (x y : Reg) (s : State) : StepOutcome := finishNext (s.setV x (s.getV x ^^^ s.getV y))

/-- ADD Vx, Vy, 8XY4: VF is the carry (R127). -/
def execAddReg (x y : Reg) (s : State) : StepOutcome :=
  finishNext (s.setVFlag x (s.getV x + s.getV y) (carry (s.getV x) (s.getV y)))

/-- SUB Vx, Vy, 8XY5: Vx - Vy, VF is not-borrow (R128). -/
def execSubReg (x y : Reg) (s : State) : StepOutcome :=
  finishNext (s.setVFlag x (s.getV x - s.getV y) (notBorrow (s.getV x) (s.getV y)))

/-- SHR Vx, 8XY6: Vx is shifted in place, VF is the old bit 0 (R129, decision D7). -/
def execShr (x : Reg) (s : State) : StepOutcome :=
  finishNext (s.setVFlag x (s.getV x >>> 1) (shiftedOutRight (s.getV x)))

/-- SUBN Vx, Vy, 8XY7: Vy - Vx, VF is not-borrow (R130). -/
def execSubnReg (x y : Reg) (s : State) : StepOutcome :=
  finishNext (s.setVFlag x (s.getV y - s.getV x) (notBorrow (s.getV y) (s.getV x)))

/-- SHL Vx, 8XYE: Vx is shifted in place, VF is the old bit 7 (R131, decision D7). -/
def execShl (x : Reg) (s : State) : StepOutcome :=
  finishNext (s.setVFlag x (s.getV x <<< 1) (shiftedOutLeft (s.getV x)))

/-- RND Vx, nn, CXNN: a fresh random byte, masked (R133, decision D25). -/
def execRnd (x : Reg) (nn : Byte) (s : State) : StepOutcome :=
  finishNext (s.consumeRand.setV x (s.nextRand &&& nn))

end Sys2Proof.Machine
end

