-- ==== Sys2Proof/Machine/Operands.lean ====
section
/-! DEFINITION. The operand forms: zero-extended addresses, the low nibble of a register, a digit's glyph address, the
three decimal digits of a byte. -/

namespace Sys2Proof.Machine

/-- zext_16(NNN): an address operand, not scaled (30_encoding.md R83). -/
def zextAddr (nnn : BitVec 12) : Word := nnn.setWidth 16

/-- zext_16 of a register's value (42_control_flow.md R149, 43_memory_index.md R162). -/
def zextByte (b : Byte) : Word := b.setWidth 16

/-- The low four bits of a register's value: a key index or a digit (46_input.md R193, 43_memory_index.md R163). -/
def lowNibble (b : Byte) : Fin 16 := (b.extractLsb' 0 4).toFin

/-- The address of the glyph of the digit in the low nibble: 5 times the digit (43_memory_index.md R163). -/
def glyphAddr (b : Byte) : Word := BitVec.ofNat 16 (Config.glyphBytes * (lowNibble b).val)

/-- Hundreds, tens and ones of a byte, most significant first (43_memory_index.md R164, decision D19). -/
def bcdDigits (b : Byte) : List Byte :=
  [BitVec.ofNat 8 (b.toNat / 100), BitVec.ofNat 8 (b.toNat / 10 % 10), BitVec.ofNat 8 (b.toNat % 10)]

end Sys2Proof.Machine
end

