-- ==== Sys2Proof/Machine/Control.lean ====
section
/-! DEFINITION. The meanings of 42_control_flow.md: jumps, call and return, skips on register values, and SYS. -/

namespace Sys2Proof.Machine

/-- SYS nnn, 0NNN: what an unknown opcode does, report included (R141, decision D3). The operand is ignored. -/
def execSys (_nnn : BitVec 12) (s : State) : StepOutcome := reportUnknown s

/-- RET, 00EE: PC is the popped entry, with no + 2 (R142). -/
def execRet (s : State) : StepOutcome :=
  match s.pop with
  | .error f => raise f
  | .ok (a, t) => finishGoto t a

/-- JP nnn, 1NNN (R143). -/
def execJp (nnn : BitVec 12) (s : State) : StepOutcome := finishGoto s (zextAddr nnn)

/-- CALL nnn, 2NNN: PC + 2 is pushed (R144, decision D16). -/
def execCall (nnn : BitVec 12) (s : State) : StepOutcome :=
  match s.push (s.pc + 2#16) with
  | .error f => raise f
  | .ok t => finishGoto t (zextAddr nnn)

/-- JP V0, nnn, BNNN: the sum is not reduced (R149, decision D20). -/
def execJpV0 (nnn : BitVec 12) (s : State) : StepOutcome := finishGoto s (zextAddr nnn + zextByte (s.getV V0))

/-- SE Vx, nn, 3XNN (R145). -/
def execSeImm (x : Reg) (nn : Byte) (s : State) : StepOutcome := finishSkipIf (s.getV x == nn) s

/-- SNE Vx, nn, 4XNN (R146). -/
def execSneImm (x : Reg) (nn : Byte) (s : State) : StepOutcome := finishSkipIf (s.getV x != nn) s

/-- SE Vx, Vy, 5XY0 (R147). -/
def execSeReg (x y : Reg) (s : State) : StepOutcome := finishSkipIf (s.getV x == s.getV y) s

/-- SNE Vx, Vy, 9XY0 (R148). -/
def execSneReg (x y : Reg) (s : State) : StepOutcome := finishSkipIf (s.getV x != s.getV y) s

end Sys2Proof.Machine
end

