-- ==== Sys2Proof/Machine/Display.lean ====
section
/-! DEFINITION. The meanings of 44_display.md: clear, and the XOR draw with its collision flag. -/

namespace Sys2Proof.Machine

/-- CLS, 00E0 (R171). -/
def execCls (s : State) : StepOutcome := finishNext (s.setDisplay Grid.blank)

/-- What a draw has done so far: the grid, and whether a set cell was unset. -/
abbrev Drawing := Grid × Bool

/-- One set sprite bit at (x, y), reduced modulo the grid's dimensions: the collision, then the XOR (R172). -/
def drawCell (y x : Nat) (d : Drawing) : Drawing :=
  let py : Fin 32 := ⟨y % 32, Nat.mod_lt _ (by decide)⟩
  let px : Fin 64 := ⟨x % 64, Nat.mod_lt _ (by decide)⟩
  (d.1.flip py px, d.2 || d.1.cell py px)

/-- The last `k` columns of one sprite row, left to right: column c is bit 7 - c of the byte (R172, decision D17). -/
def drawColumns (b : Byte) (y x0 : Nat) : Nat → Drawing → Drawing
  | 0, d => d
  | k + 1, d =>
    drawColumns b y x0 k (if b.getLsbD k then drawCell y (x0 + (7 - k)) d else d)

/-- The sprite's rows, from row `y` down, each eight columns wide (R172). -/
def drawRows (x0 : Nat) : List Byte → Nat → Drawing → Drawing
  | [], _, d => d
  | b :: bs, y, d => drawRows x0 bs (y + 1) (drawColumns b y x0 8 d)

/-- DRW Vx, Vy, n, DXYN: the coordinates are read before VF is written, and dirty is always raised (R172, R173). -/
def execDrw (x y : Reg) (n : BitVec 4) (s : State) : StepOutcome :=
  match rangeFault s.i.toNat n.toNat with
  | some f => raise f
  | none =>
    let d := drawRows (s.getV x).toNat (s.mem.readBytes s.i.toNat n.toNat) (s.getV y).toNat (s.display, false)
    finishNext ((s.setDisplay d.1).setV VF (if d.2 then 1#8 else 0#8))

end Sys2Proof.Machine
end

