-- ==== Sys2Proof/Machine/Index.lean ====
section
/-! DEFINITION. The meanings of 43_memory_index.md: setting I, and the loads and stores at I. Every address is checked
before the first write, and I is never moved (R160, decision D10). -/

namespace Sys2Proof.Machine

/-- LD I, nnn, ANNN (R161). -/
def execLdI (nnn : BitVec 12) (s : State) : StepOutcome := finishNext (s.setI (zextAddr nnn))

/-- ADD I, Vx, FX1E: modulo 65536, no flag (R162, decision D11). -/
def execAddI (x : Reg) (s : State) : StepOutcome := finishNext (s.setI (s.i + zextByte (s.getV x)))

/-- LD F, Vx, FX29 (R163, decision D12). -/
def execLdF (x : Reg) (s : State) : StepOutcome := finishNext (s.setI (glyphAddr (s.getV x)))

/-- A store of bytes at I upward, all addresses checked first (R160, 20_memory.md R66). -/
def storeAtI (bytes : List Byte) (s : State) : StepOutcome :=
  match rangeFault s.i.toNat bytes.length with
  | some f => raise f
  | none => finishNext (s.setMem (s.mem.writeBytes s.i.toNat bytes))

/-- LD B, Vx, FX33: the three decimal digits at I, I + 1, I + 2 (R164). -/
def execLdB (x : Reg) (s : State) : StepOutcome := storeAtI (bcdDigits (s.getV x)) s

/-- LD [I], Vx, FX55: V0 to Vx at I upward (R165). -/
def execStoreRegs (x : Reg) (s : State) : StepOutcome := storeAtI (s.regsUpTo x) s

/-- LD Vx, [I], FX65: V0 to Vx from I upward (R166). -/
def execLoadRegs (x : Reg) (s : State) : StepOutcome :=
  match rangeFault s.i.toNat (x.val + 1) with
  | some f => raise f
  | none => finishNext { s with v := setRegs s.v 0 (s.mem.readBytes s.i.toNat (x.val + 1)) }

end Sys2Proof.Machine
end

