-- ==== Sys2Proof/Machine/Keys.lean ====
section
/-! DEFINITION. The meanings of 46_input.md: the skips on a key, and the wait for one. -/

namespace Sys2Proof.Machine

/-- SKP Vx, EX9E (R190, R193). -/
def execSkp (x : Reg) (s : State) : StepOutcome := finishSkipIf (s.isPressed (lowNibble (s.getV x))) s

/-- SKNP Vx, EXA1 (R191, R193). -/
def execSknp (x : Reg) (s : State) : StepOutcome := finishSkipIf (!s.isPressed (lowNibble (s.getV x))) s

/-- LD Vx, K, FX0A: hold while no key is set, else the lowest set key's index (R192, decision D13). -/
def execLdVxK (x : Reg) (s : State) : StepOutcome :=
  match s.anyPressed with
  | none => finishHold (s.setMode .waitingForKey)
  | some k => finishNext ((s.setV x (BitVec.ofNat 8 k.val)).setMode .running)

end Sys2Proof.Machine
end

