-- ==== Sys2Proof/Machine/Timers.lean ====
section
/-! DEFINITION. The meanings of 45_timers.md. The read or write comes first, the tick of the same step second (R180). -/

namespace Sys2Proof.Machine

/-- LD Vx, DT, FX07: the value before this step's tick (R181). -/
def execLdVxDt (x : Reg) (s : State) : StepOutcome := finishNext (s.setV x s.dt)

/-- LD DT, Vx, FX15: the tick then takes the new value down (R182). -/
def execLdDtVx (x : Reg) (s : State) : StepOutcome := finishNext (s.setDt (s.getV x))

/-- LD ST, Vx, FX18: the tick then takes the new value down (R183). -/
def execLdStVx (x : Reg) (s : State) : StepOutcome := finishNext (s.setSt (s.getV x))

end Sys2Proof.Machine
end

