-- ==== Sys2Proof/Decode.lean ====
section
/-! DEFINITION. From bytes to an instruction and back. Words are read by 30_encoding.md R84: CLS and RET first, then
the top nibble, then the sub-opcode, matched exactly (decision D2). A word that matches no row is rejected by name. -/

namespace Sys2Proof

/-- Why bytes are no instruction. -/
inductive DecodeError where
  /-- The word matches no row of the table (30_encoding.md R87). -/
  | unknownOpcode (op : Word)
  /-- Fewer than the two bytes every instruction has (30_encoding.md R80). -/
  | tooFewBytes
  deriving DecidableEq, Repr

/-! ### The fields of 30_encoding.md R81 -/

/-- The family, bits 15 to 12. -/
def fieldF (op : Word) : BitVec 4 := op.extractLsb' 12 4

/-- The X field, bits 11 to 8, as a register number. -/
def fieldX (op : Word) : Reg := (op.extractLsb' 8 4).toFin

/-- The Y field, bits 7 to 4, as a register number. -/
def fieldY (op : Word) : Reg := (op.extractLsb' 4 4).toFin

/-- The N field, bits 3 to 0. -/
def fieldN (op : Word) : BitVec 4 := op.extractLsb' 0 4

/-- The NN field, bits 7 to 0. -/
def fieldNN (op : Word) : Byte := op.extractLsb' 0 8

/-- The NNN field, bits 11 to 0. -/
def fieldNNN (op : Word) : BitVec 12 := op.extractLsb' 0 12

/-! ### The second decode level -/

/-- Family 0: CLS and RET are matched before SYS (30_encoding.md R84 (1), R88). -/
def decodeFamily0 (op : Word) : Instr :=
  if fieldNNN op = 0x0E0#12 then .cls
  else if fieldNNN op = 0x0EE#12 then .ret
  else .sys (fieldNNN op)

/-- Families 5 and 9: the low nibble must be 0 (30_encoding.md R85, R87). -/
def decodeXY0 (op : Word) (i : Reg → Reg → Instr) : Except DecodeError Instr :=
  if fieldN op = 0x0#4 then .ok (i (fieldX op) (fieldY op)) else .error (.unknownOpcode op)

/-- Family 8, by the low nibble (30_encoding.md R85). The shifts ignore Y (R129, R131). -/
def decodeFamily8 (op : Word) : Except DecodeError Instr :=
  match fieldN op with
  | 0x0#4 => .ok (.ldReg (fieldX op) (fieldY op))
  | 0x1#4 => .ok (.orReg (fieldX op) (fieldY op))
  | 0x2#4 => .ok (.andReg (fieldX op) (fieldY op))
  | 0x3#4 => .ok (.xorReg (fieldX op) (fieldY op))
  | 0x4#4 => .ok (.addReg (fieldX op) (fieldY op))
  | 0x5#4 => .ok (.subReg (fieldX op) (fieldY op))
  | 0x6#4 => .ok (.shr (fieldX op))
  | 0x7#4 => .ok (.subnReg (fieldX op) (fieldY op))
  | 0xE#4 => .ok (.shl (fieldX op))
  | _ => .error (.unknownOpcode op)

/-- Family E, by the low byte (30_encoding.md R85). -/
def decodeFamilyE (op : Word) : Except DecodeError Instr :=
  match fieldNN op with
  | 0x9E#8 => .ok (.skp (fieldX op))
  | 0xA1#8 => .ok (.sknp (fieldX op))
  | _ => .error (.unknownOpcode op)

/-- Family F, by the low byte (30_encoding.md R85). -/
def decodeFamilyF (op : Word) : Except DecodeError Instr :=
  match fieldNN op with
  | 0x07#8 => .ok (.ldVxDt (fieldX op))
  | 0x0A#8 => .ok (.ldVxK (fieldX op))
  | 0x15#8 => .ok (.ldDtVx (fieldX op))
  | 0x18#8 => .ok (.ldStVx (fieldX op))
  | 0x1E#8 => .ok (.addI (fieldX op))
  | 0x29#8 => .ok (.ldF (fieldX op))
  | 0x33#8 => .ok (.ldB (fieldX op))
  | 0x55#8 => .ok (.storeRegs (fieldX op))
  | 0x65#8 => .ok (.loadRegs (fieldX op))
  | _ => .error (.unknownOpcode op)

/-- The instruction of a word, or its rejection by name (30_encoding.md R84, R85, R87). The last arm is family F:
the fifteen before it are the other values of a nibble. -/
def decode (op : Word) : Except DecodeError Instr :=
  match fieldF op with
  | 0x0#4 => .ok (decodeFamily0 op)
  | 0x1#4 => .ok (.jp (fieldNNN op))
  | 0x2#4 => .ok (.call (fieldNNN op))
  | 0x3#4 => .ok (.seImm (fieldX op) (fieldNN op))
  | 0x4#4 => .ok (.sneImm (fieldX op) (fieldNN op))
  | 0x5#4 => decodeXY0 op .seReg
  | 0x6#4 => .ok (.ldImm (fieldX op) (fieldNN op))
  | 0x7#4 => .ok (.addImm (fieldX op) (fieldNN op))
  | 0x8#4 => decodeFamily8 op
  | 0x9#4 => decodeXY0 op .sneReg
  | 0xA#4 => .ok (.ldI (fieldNNN op))
  | 0xB#4 => .ok (.jpV0 (fieldNNN op))
  | 0xC#4 => .ok (.rnd (fieldX op) (fieldNN op))
  | 0xD#4 => .ok (.drw (fieldX op) (fieldY op) (fieldN op))
  | 0xE#4 => decodeFamilyE op
  | _ => decodeFamilyF op

/-! ### Words and bytes -/

/-- Big-endian composition: the byte at the lower address is bits 15 to 8 (20_memory.md R63). -/
def composeWord (hi lo : Byte) : Word := hi ++ lo

/-- The two bytes of a word as memory holds them, the first at the lower address (20_memory.md R63). -/
def wordBytes (op : Word) : List Byte := [op.extractLsb' 8 8, op.extractLsb' 0 8]

/-- The instruction at the head of a byte string, with the rest of the string. -/
def decodeBytes : List Byte → Except DecodeError (Instr × List Byte)
  | hi :: lo :: rest => (decode (composeWord hi lo)).map (fun i => (i, rest))
  | [_] | [] => .error .tooFewBytes

/-! ### The encoder, from the same table -/

/-- A register number as a nibble. -/
def regBits (r : Reg) : BitVec 4 := BitVec.ofFin (w := 4) r

/-- Format A: family and NNN (30_encoding.md R82). -/
def wordA (f : BitVec 4) (nnn : BitVec 12) : Word := f ++ nnn

/-- Formats XI and XS: family, X and a byte, immediate or sub-opcode (30_encoding.md R82). -/
def wordXI (f : BitVec 4) (x : Reg) (nn : Byte) : Word := f ++ (regBits x ++ nn)

/-- Formats XY and XYN: family, X, Y and a nibble, sub-opcode or immediate (30_encoding.md R82). -/
def wordXYN (f : BitVec 4) (x y : Reg) (n : BitVec 4) : Word := f ++ (regBits x ++ (regBits y ++ n))

/-- The word of an instruction (30_encoding.md R85). The Y field of a shift is assembled as 0 (R90). -/
def encode : Instr → Word
  | .cls => 0x00E0#16
  | .ret => 0x00EE#16
  | .sys nnn => wordA 0x0#4 nnn
  | .jp nnn => wordA 0x1#4 nnn
  | .call nnn => wordA 0x2#4 nnn
  | .seImm x nn => wordXI 0x3#4 x nn
  | .sneImm x nn => wordXI 0x4#4 x nn
  | .seReg x y => wordXYN 0x5#4 x y 0x0#4
  | .ldImm x nn => wordXI 0x6#4 x nn
  | .addImm x nn => wordXI 0x7#4 x nn
  | .ldReg x y => wordXYN 0x8#4 x y 0x0#4
  | .orReg x y => wordXYN 0x8#4 x y 0x1#4
  | .andReg x y => wordXYN 0x8#4 x y 0x2#4
  | .xorReg x y => wordXYN 0x8#4 x y 0x3#4
  | .addReg x y => wordXYN 0x8#4 x y 0x4#4
  | .subReg x y => wordXYN 0x8#4 x y 0x5#4
  | .shr x => wordXYN 0x8#4 x 0 0x6#4
  | .subnReg x y => wordXYN 0x8#4 x y 0x7#4
  | .shl x => wordXYN 0x8#4 x 0 0xE#4
  | .sneReg x y => wordXYN 0x9#4 x y 0x0#4
  | .ldI nnn => wordA 0xA#4 nnn
  | .jpV0 nnn => wordA 0xB#4 nnn
  | .rnd x nn => wordXI 0xC#4 x nn
  | .drw x y n => wordXYN 0xD#4 x y n
  | .skp x => wordXI 0xE#4 x 0x9E#8
  | .sknp x => wordXI 0xE#4 x 0xA1#8
  | .ldVxDt x => wordXI 0xF#4 x 0x07#8
  | .ldVxK x => wordXI 0xF#4 x 0x0A#8
  | .ldDtVx x => wordXI 0xF#4 x 0x15#8
  | .ldStVx x => wordXI 0xF#4 x 0x18#8
  | .addI x => wordXI 0xF#4 x 0x1E#8
  | .ldF x => wordXI 0xF#4 x 0x29#8
  | .ldB x => wordXI 0xF#4 x 0x33#8
  | .storeRegs x => wordXI 0xF#4 x 0x55#8
  | .loadRegs x => wordXI 0xF#4 x 0x65#8

/-- The mask of an instruction's row, as 30_encoding.md R85 prints it: the bits that are fixed. -/
def rowMask : Instr → Word
  | .cls | .ret => 0xFFFF#16
  | .sys _ | .jp _ | .call _ | .ldI _ | .jpV0 _ => 0xF000#16
  | .seImm _ _ | .sneImm _ _ | .ldImm _ _ | .addImm _ _ | .rnd _ _ | .drw _ _ _ => 0xF000#16
  | .seReg _ _ | .ldReg _ _ | .orReg _ _ | .andReg _ _ | .xorReg _ _ | .addReg _ _ | .subReg _ _ | .shr _
  | .subnReg _ _ | .shl _ | .sneReg _ _ => 0xF00F#16
  | .skp _ | .sknp _ | .ldVxDt _ | .ldVxK _ | .ldDtVx _ | .ldStVx _ | .addI _ | .ldF _ | .ldB _
  | .storeRegs _ | .loadRegs _ => 0xF0FF#16

/-- The match value of an instruction's row, as 30_encoding.md R85 prints it. -/
def rowMatch : Instr → Word
  | .cls => 0x00E0#16
  | .ret => 0x00EE#16
  | .sys _ => 0x0000#16
  | .jp _ => 0x1000#16
  | .call _ => 0x2000#16
  | .seImm _ _ => 0x3000#16
  | .sneImm _ _ => 0x4000#16
  | .seReg _ _ => 0x5000#16
  | .ldImm _ _ => 0x6000#16
  | .addImm _ _ => 0x7000#16
  | .ldReg _ _ => 0x8000#16
  | .orReg _ _ => 0x8001#16
  | .andReg _ _ => 0x8002#16
  | .xorReg _ _ => 0x8003#16
  | .addReg _ _ => 0x8004#16
  | .subReg _ _ => 0x8005#16
  | .shr _ => 0x8006#16
  | .subnReg _ _ => 0x8007#16
  | .shl _ => 0x800E#16
  | .sneReg _ _ => 0x9000#16
  | .ldI _ => 0xA000#16
  | .jpV0 _ => 0xB000#16
  | .rnd _ _ => 0xC000#16
  | .drw _ _ _ => 0xD000#16
  | .skp _ => 0xE09E#16
  | .sknp _ => 0xE0A1#16
  | .ldVxDt _ => 0xF007#16
  | .ldVxK _ => 0xF00A#16
  | .ldDtVx _ => 0xF015#16
  | .ldStVx _ => 0xF018#16
  | .addI _ => 0xF01E#16
  | .ldF _ => 0xF029#16
  | .ldB _ => 0xF033#16
  | .storeRegs _ => 0xF055#16
  | .loadRegs _ => 0xF065#16

/-! ### The table's own numbering, for the host -/

/-- The bytes in memory of the instruction whose bits are `w`, `nbits` of them given by the table and 0 above:
one 16-bit word, its more significant byte first. -/
def tableBytes (nbits w : Nat) : List Byte := wordBytes (BitVec.ofNat 16 (w % 2 ^ nbits))

/-- The instruction the decoder reads from a table word, none where it rejects it. -/
def decodeTableWord (nbits w : Nat) : Option Instr :=
  match decodeBytes (tableBytes nbits w) with
  | .ok (i, _) => some i
  | .error _ => none

end Sys2Proof
end

