-- ==== Sys2Proof/Machine/Fetch.lean ====
section
/-! DEFINITION. Fetching an instruction, and what a step does once it has fetched a word that decodes to none. -/

namespace Sys2Proof.Machine

/-- The two bytes at PC and PC + 1, big-endian, both addresses checked first and neither wrapped (40_step_cycle.md
R101, 20_memory.md R63). -/
def fetch (s : State) : Except Fault Word :=
  match rangeFault s.pc.toNat 2 with
  | some f => .error f
  | none => .ok (composeWord (s.mem.read s.pc.toNat) (s.mem.read (s.pc.toNat + 1)))

/-- A word that matches no row (40_step_cycle.md R109): reported whatever word it is. -/
def undecoded (_e : DecodeError) (s : State) : StepOutcome := reportUnknown s

/-- `s` with the bytes of a table word stored at PC and PC + 1, where the next step fetches; nothing else changes.
A PC that cannot fetch takes no bytes (assumption log 10). -/
def placeAtPc (s : State) (nbits w : Nat) : State :=
  match rangeFault s.pc.toNat 2 with
  | some _ => s
  | none => s.setMem (s.mem.writeBytes s.pc.toNat (tableBytes nbits w))

end Sys2Proof.Machine
end

