-- ==== Sys2Proof/Machine/Step.lean ====
section
/-! DEFINITION. One step: fetch, decode, execute (40_step_cycle.md R100). The PC update and the timer tick are in the
completion words that each meaning ends with. -/

namespace Sys2Proof.Machine

/-- The step event (40_step_cycle.md R100): the same in either mode (R106). -/
def step (s : State) : Host.Outcome State Fault Refusal :=
  match fetch s with
  | .error f => raise f
  | .ok op =>
    match decode op with
    | .error e => undecoded e s
    | .ok i => exec i s

/-- The state in which the next step fetches the table word `w`. -/
def State.withFetchWord (s : State) (nbits w : Nat) : State := placeAtPc s nbits w

end Sys2Proof.Machine
end

