-- ==== Sys2Proof/Machine/Session.lean ====
section
/-! DEFINITION. What the host can do to the machine between steps (00_scope.md R9, 70_reset_and_hazards.md R240): the step
event with its result, reset, load, set_key, clear_dirty, and the random bytes it supplies; and the order in which it
may do them (20_memory.md R62). -/

namespace Sys2Proof.Machine

/-- The result a rollback fault reports (60_exceptions.md R200). -/
def Fault.result : Fault → StepResult
  | .memoryFault _ => .memoryFault
  | .stackOverflow => .stackOverflow
  | .stackUnderflow => .stackUnderflow

/-- The numeric code of a result (60_exceptions.md R200). -/
def StepResult.code : StepResult → Nat
  | .ok => 0
  | .unknownOpcode => 1
  | .memoryFault => 2
  | .stackOverflow => 3
  | .stackUnderflow => 4

/-- The state after a step that answered `o` in state `s`: a rollback fault leaves the state as it was and is reported
(40_step_cycle.md R108, R110). -/
def afterStep (s : State) (o : StepOutcome) : State :=
  match o with
  | .next t => t
  | .fault f => { s with result := f.result }
  | .refused _ => s

/-- The step event as the host sees it: always a state and a result, after a fault as well (60_exceptions.md R210). -/
def stepEvent (s : State) : State := afterStep s (step s)

/-- The reset event (70_reset_and_hazards.md R230). The random input is outside the block: neither the bytes the host
has supplied nor the place of the free sequence is reset (10_state.md R44, assumption log 12). -/
def resetEvent (s : State) : State := { State.reset with rands := s.rands, draws := s.draws }

/-- What `load` returns (20_memory.md R61). -/
inductive LoadResult where
  | ok
  | romTooLarge
  deriving DecidableEq, Repr

/-- `load(bytes)` (20_memory.md R61): too many bytes change nothing (60_exceptions.md R204). -/
def load (s : State) (bytes : List Byte) : LoadResult × State :=
  if Config.progMax < bytes.length then (.romTooLarge, s)
  else (.ok, s.setMem (s.mem.writeBytes Config.progBase bytes))

/-- `set_key(index, pressed)` (10_state.md R40): an index above 15 is refused (assumption log 14). -/
def setKey (s : State) (index : Nat) (pressed : Bool) : StepOutcome :=
  if h : index < 16 then .next { s with keys := s.keys.set index pressed h }
  else .refused (.keyIndexOutOfRange index)

/-- `clear_dirty` (10_state.md R38; assumption log 17). -/
def clearDirty (s : State) : State := { s with dirty := false }

/-- The host supplies one more random byte (00_scope.md R9, 70_reset_and_hazards.md R240). -/
def supplyRand (s : State) (b : Byte) : State := { s with rands := s.rands ++ [b] }

/-- What the host can do between steps (70_reset_and_hazards.md R240; assumption log 20). -/
inductive HostEvent where
  | reset
  | load (bytes : List Byte)
  | step
  | setKey (index : Nat) (pressed : Bool)
  | clearDirty
  | supplyRand (b : Byte)
  deriving DecidableEq, Repr

/-- The machine in the host's hands: its state, whether a load is still within the contract (20_memory.md R62), and
what the last load returned. -/
structure Session where
  core : State
  loadOpen : Bool
  lastLoad : Option LoadResult
  deriving DecidableEq, Repr

/-- The session right after the first reset. -/
def Session.start : Session := { core := State.reset, loadOpen := true, lastLoad := none }

/-- One host event: reset opens the load window, a load or a step closes it, and a load outside it is refused
(20_memory.md R62, decision D27; assumption log 11). -/
def Session.act (e : HostEvent) (h : Session) : Host.Outcome Session Fault Refusal :=
  match e with
  | .reset => .next { core := resetEvent h.core, loadOpen := true, lastLoad := none }
  | .load bytes =>
    if h.loadOpen then
      .next { core := (load h.core bytes).2, loadOpen := false, lastLoad := some (load h.core bytes).1 }
    else .refused .loadOutsideWindow
  | .step => .next { h with core := stepEvent h.core, loadOpen := false }
  | .setKey index pressed =>
    match setKey h.core index pressed with
    | .next t => .next { h with core := t }
    | .fault f => .fault f
    | .refused r => .refused r
  | .clearDirty => .next { h with core := clearDirty h.core }
  | .supplyRand b => .next { h with core := supplyRand h.core b }

end Sys2Proof.Machine
end

