-- ==== Sys2Proof/Safety.lean ====
section
/-! DEFINITION. The terms that claims are made in: a safe step, the end of a run, the causes of a fault, where PC goes,
which registers an instruction may write, frames, and the invariants. -/

namespace Sys2Proof.Safety

open Sys2Proof.Machine

/-! ### Runs -/

/-- A step that reports none of the three rollback faults (60_exceptions.md R219). -/
def StepSafe (s : State) : Prop := ∃ t, step s = .next t

/-- A safe step that also reports no unknown opcode (60_exceptions.md R200: code 0). -/
def StepOk (s : State) : Prop := ∃ t, step s = .next t ∧ t.result = .ok

/-- END_OF_RUN (70_reset_and_hazards.md R246, decision D26: open). DESIGN CHOICE (assumption log 13): a run is over
when the word at PC is a jump to PC. -/
def endOfRun (s : State) : Bool :=
  match fetch s with
  | .ok op => op == encode (.jp (s.pc.setWidth 12))
  | .error _ => false

/-! ### Frames -/

/-- Every register outside `rs` is kept. -/
def KeepsRegs (rs : List Reg) (s t : State) : Prop := ∀ r : Reg, r ∉ rs → t.getV r = s.getV r

/-- Every byte of memory reads as before. -/
def KeepsMem (s t : State) : Prop := ∀ a, t.mem.read a = s.mem.read a

/-- The call stack and its depth are kept. -/
def KeepsStack (s t : State) : Prop := t.sp = s.sp ∧ t.stack = s.stack

/-- The display and the dirty flag are kept. -/
def KeepsScreen (s t : State) : Prop := t.display = s.display ∧ t.dirty = s.dirty

/-- The key latch and the random input are kept. -/
def KeepsInputs (s t : State) : Prop := t.keys = s.keys ∧ t.rands = s.rands ∧ t.draws = s.draws

/-- Each timer went down by 1 if it was nonzero (10_state.md R33): Nat subtraction stops at 0. -/
def Ticked (s t : State) : Prop := t.dt.toNat = s.dt.toNat - 1 ∧ t.st.toNat = s.st.toNat - 1

/-- A completed step to `p` whose result is Ok and whose only effects are the tick and the registers `rs`. For an
instruction that also writes another element, `s` is the state before the step with that element's new value. -/
structure OrdinaryStep (s t : State) (p : Word) (rs : List Reg) : Prop where
  pc : t.pc = p
  result : t.result = .ok
  ticked : Ticked s t
  regs : KeepsRegs rs s t
  mem : KeepsMem s t
  index : t.i = s.i
  stack : KeepsStack s t
  screen : KeepsScreen s t
  inputs : KeepsInputs s t
  mode : t.mode = s.mode

/-! ### Instructions -/

/-- The causes of a fault of an instruction, all of them (60_exceptions.md R201 (b) to (e), R202, R203). -/
def FaultCause (i : Instr) (s : State) (f : Fault) : Prop :=
  (i = .ret ∧ s.sp.val = 0 ∧ f = .stackUnderflow) ∨
  ((∃ nnn, i = .call nnn) ∧ s.sp.val = 16 ∧ f = .stackOverflow) ∨
  (f = .memoryFault (max s.i.toNat 4096) ∧
    ((∃ x y n, i = .drw x y n ∧ n.toNat > 0 ∧ s.i.toNat + n.toNat - 1 ≥ 4096) ∨
     (∃ x, i = .ldB x ∧ s.i.toNat + 2 ≥ 4096) ∨
     (∃ x : Reg, i = .storeRegs x ∧ s.i.toNat + x.val ≥ 4096) ∨
     (∃ x : Reg, i = .loadRegs x ∧ s.i.toNat + x.val ≥ 4096)))

/-- The registers an instruction may write (the table of 10_state.md R23). -/
def mayWriteReg (i : Instr) (r : Reg) : Prop :=
  match i with
  | .ldImm x _ | .addImm x _ | .ldReg x _ | .orReg x _ | .andReg x _ | .xorReg x _ | .rnd x _ | .ldVxDt x
  | .ldVxK x => r = x
  | .addReg x _ | .subReg x _ | .shr x | .subnReg x _ | .shl x => r = x ∨ r = VF
  | .drw _ _ _ => r = VF
  | .loadRegs x => r ≤ x
  | .cls | .ret | .sys _ | .jp _ | .call _ | .seImm _ _ | .sneImm _ _ | .seReg _ _ | .sneReg _ _ | .ldI _ | .jpV0 _
  | .skp _ | .sknp _ | .ldDtVx _ | .ldStVx _ | .addI _ | .ldF _ | .ldB _ | .storeRegs _ => False

/-- The six instructions that write VF as a flag (10_state.md R22). -/
def isFlagWriter : Instr → Bool
  | .addReg _ _ | .subReg _ _ | .shr _ | .subnReg _ _ | .shl _ | .drw _ _ _ => true
  | .cls | .ret | .sys _ | .jp _ | .call _ | .seImm _ _ | .sneImm _ _ | .seReg _ _ | .sneReg _ _ | .ldImm _ _
  | .addImm _ _ | .ldReg _ _ | .orReg _ _ | .andReg _ _ | .xorReg _ _ | .ldI _ | .jpV0 _ | .rnd _ _ | .skp _ | .sknp _
  | .ldVxDt _ | .ldVxK _ | .ldDtVx _ | .ldStVx _ | .addI _ | .ldF _ | .ldB _ | .storeRegs _ | .loadRegs _ => false

/-- Whether a conditional skip's condition holds (42_control_flow.md R145 to R148, 46_input.md R190, R191), and false for
every other instruction. -/
def skips (i : Instr) (s : State) : Bool :=
  match i with
  | .seImm x nn => decide (s.getV x = nn)
  | .sneImm x nn => decide (s.getV x ≠ nn)
  | .seReg x y => decide (s.getV x = s.getV y)
  | .sneReg x y => decide (s.getV x ≠ s.getV y)
  | .skp x => s.keys[(s.getV x).toNat % 16]'(Nat.mod_lt _ (by decide))
  | .sknp x => !s.keys[(s.getV x).toNat % 16]'(Nat.mod_lt _ (by decide))
  | .cls | .ret | .sys _ | .jp _ | .call _ | .ldImm _ _ | .addImm _ _ | .ldReg _ _ | .orReg _ _ | .andReg _ _
  | .xorReg _ _ | .addReg _ _ | .subReg _ _ | .shr _ | .subnReg _ _ | .shl _ | .ldI _ | .jpV0 _ | .rnd _ _
  | .drw _ _ _ | .ldVxDt _ | .ldVxK _ | .ldDtVx _ | .ldStVx _ | .addI _ | .ldF _ | .ldB _ | .storeRegs _
  | .loadRegs _ => false

/-- No key of the latch is set. -/
def NoKey (s : State) : Prop := ∀ k (h : k < 16), s.keys[k] = false

/-- A set bit of the sprite that DRW Vx, Vy, n reads at I lies on the cell D[py][px] (44_display.md R172): row `r`,
column `c`, bit 7 - c, both coordinates reduced modulo the grid. -/
def SpriteOn (s : State) (x y : Reg) (n : BitVec 4) (py : Fin 32) (px : Fin 64) : Prop :=
  ∃ r c, r < n.toNat ∧ c < 8 ∧ (s.mem.read (s.i.toNat + r)).getLsbD (7 - c) = true ∧
    ((s.getV y).toNat + r) % 32 = py.val ∧ ((s.getV x).toNat + c) % 64 = px.val

/-- `o` with the random input replaced in its next state. -/
def withRandInput (rs : List Byte) (d : Nat) (o : StepOutcome) : StepOutcome :=
  match o with
  | .next t => .next { t with rands := rs, draws := d }
  | .fault f => .fault f
  | .refused r => .refused r

/-! ### Reset and invariants -/

/-- The twelve elements at their reset values (10_state.md R45). -/
structure AtReset (s : State) : Prop where
  font : ∀ a, a < 80 → s.mem.read a = Config.font.getD a 0#8
  zero : ∀ a, 80 ≤ a → s.mem.read a = 0#8
  v : ∀ r : Reg, s.getV r = 0#8
  i : s.i = 0#16
  pc : s.pc = 0x200#16
  stack : ∀ k (h : k < 16), s.stack[k] = 0#16
  sp : s.sp = 0
  dt : s.dt = 0#8
  st : s.st = 0#8
  display : ∀ y x, s.display.cell y x = false
  dirty : s.dirty = false
  keys : NoKey s
  mode : s.mode = .running

/-- Memory is in its canonical form and lists no cell outside the address space. -/
def MemoryCanonical (s : State) : Prop := s.mem.wf = true ∧ s.mem.inRange = true

/-- The bounds of 10_state.md R27: the largest PC that any rule can write, and the largest stack entry. -/
def AddressesBounded (s : State) : Prop := s.pc.toNat ≤ 0x10FE ∧ ∀ k (h : k < 16), s.stack[k].toNat ≤ 4096

/-- A machine that waits for a key has an FX0A at PC (10_state.md R41). -/
def WaitsAtKeyWait (s : State) : Prop :=
  s.mode = .waitingForKey → ∃ op x, fetch s = .ok op ∧ decode op = .ok (.ldVxK x)

end Sys2Proof.Safety
end

