-- ==== Sys2Proof/Certificates/Slice0/Obligations.lean ====
section
/-! DEFINITION. The statements for the provers. Each docstring names the rule it formalises, and for a clause that
rests on a decision of 92_eei_decisions.md (D<n>) or on the model's own log, which one. -/

open Sys2Proof Sys2Proof.Machine Sys2Proof.Safety

/-! ### Encoding -/

/-- Words written out from the table of 30_encoding.md R85, at least one for each value of bits 15 to 12 (the table is
decision D1), and one word that no row matches. -/
def Obligations.TableWordsDecodeAsPrinted : Prop :=
  decode 0x00E0#16 = .ok .cls ∧ decode 0x00EE#16 = .ok .ret ∧ decode 0x0123#16 = .ok (.sys 0x123#12) ∧
  decode 0x1234#16 = .ok (.jp 0x234#12) ∧ decode 0x2300#16 = .ok (.call 0x300#12) ∧
  decode 0x3110#16 = .ok (.seImm 1 0x10#8) ∧ decode 0x4111#16 = .ok (.sneImm 1 0x11#8) ∧
  decode 0x5120#16 = .ok (.seReg 1 2) ∧ decode 0x6A2B#16 = .ok (.ldImm 10 0x2B#8) ∧
  decode 0x7305#16 = .ok (.addImm 3 0x05#8) ∧ decode 0x8014#16 = .ok (.addReg 0 1) ∧
  decode 0x8276#16 = .ok (.shr 2) ∧ decode 0x9120#16 = .ok (.sneReg 1 2) ∧
  decode 0xA2F0#16 = .ok (.ldI 0x2F0#12) ∧ decode 0xBFFF#16 = .ok (.jpV0 0xFFF#12) ∧ decode 0xC30F#16 = .ok (.rnd 3 0x0F#8) ∧
  decode 0xD125#16 = .ok (.drw 1 2 5#4) ∧ decode 0xE2A1#16 = .ok (.sknp 2) ∧ decode 0xF50A#16 = .ok (.ldVxK 5) ∧
  decode 0xF315#16 = .ok (.ldDtVx 3) ∧ decode 0xF265#16 = .ok (.loadRegs 2) ∧
  decode 0x8008#16 = .error (.unknownOpcode 0x8008#16)

/-- Decoding an encoded well-formed instruction gives it back, with every operand at every value (30_encoding.md R84,
R85, R90). -/
def Obligations.DecodeOfEncodeIsIdentity : Prop :=
  ∀ i : Instr, i.wellFormed = true → decode (encode i) = .ok i

/-- A decoded word has its row's fixed bits, and is the encoder's word but for the Y field that a shift ignores
(30_encoding.md R84; 41_arithmetic_logic.md R129, R131). That a shift is encoded with Y = 0 is 30_encoding.md R90 and the
model's assumption log 19. -/
def Obligations.DecodedWordMatchesItsRow : Prop :=
  ∀ (op : Word) (i : Instr), decode op = .ok i →
    i.wellFormed = true ∧ op &&& rowMask i = rowMatch i ∧
    (encode i = op ∨ ((∃ x, i = .shr x ∨ i = .shl x) ∧ encode i = op &&& 0xFF0F#16))

/-- The unknown words are exactly those of the table of 30_encoding.md R87 (exact match: decision D2). -/
def Obligations.UnknownWordsAreExactlyTheTable : Prop :=
  ∀ op : Word, decode op = .error (.unknownOpcode op) ↔
    ((op.toNat / 4096 = 5 ∨ op.toNat / 4096 = 9) ∧ op.toNat % 16 ≠ 0) ∨
    (op.toNat / 4096 = 8 ∧ op.toNat % 16 ∈ [8, 9, 10, 11, 12, 13, 15]) ∨
    (op.toNat / 4096 = 14 ∧ op.toNat % 256 ∉ [0x9E, 0xA1]) ∨
    (op.toNat / 4096 = 15 ∧ op.toNat % 256 ∉ [0x07, 0x0A, 0x15, 0x18, 0x1E, 0x29, 0x33, 0x55, 0x65])

/-- After CLS and RET are taken out, at most one row of the table matches a word (30_encoding.md R84 (2)). -/
def Obligations.AtMostOneRowMatches : Prop :=
  ∀ (op : Word) (i j : Instr), op ≠ 0x00E0#16 → op ≠ 0x00EE#16 →
    op &&& rowMask i = rowMatch i → op &&& rowMask j = rowMatch j →
    rowMask i = rowMask j ∧ rowMatch i = rowMatch j

/-! ### The step -/

/-- Fetch: the bounds check with the state unchanged, and else the big-endian word (40_step_cycle.md R101). -/
def Obligations.FetchChecksBoundsThenReadsBigEndian : Prop :=
  ∀ s : State,
    (s.pc.toNat ≥ 4095 →
      (∃ a, step s = .fault (.memoryFault a)) ∧ stepEvent s = { s with result := .memoryFault }) ∧
    (s.pc.toNat ≤ 4094 → ∃ op, fetch s = .ok op ∧
      op.extractLsb' 8 8 = s.mem.read s.pc.toNat ∧ op.extractLsb' 0 8 = s.mem.read (s.pc.toNat + 1))

/-- A step whose bytes at PC decode to `i` is `exec i`, in either mode; the PC update and the tick are part of exec
(40_step_cycle.md R100, R103, R106). -/
def Obligations.StepRunsTheDecodedInstruction : Prop :=
  ∀ (s : State) (i : Instr), s.pc.toNat ≤ 4094 →
    decode (s.mem.read s.pc.toNat ++ s.mem.read (s.pc.toNat + 1)) = .ok i → step s = exec i s

/-- An unknown word, and SYS, are reported, advance PC by 2, tick, and change nothing else (60_exceptions.md R205,
40_step_cycle.md R109; the tick is decision D6, SYS decision D3). -/
def Obligations.UnknownOpcodeIsReportedAndSteppedOver : Prop :=
  (∀ (s : State) (op : Word) (e : DecodeError), fetch s = .ok op → decode op = .error e →
    ∃ t, step s = .next t ∧ t.result = .unknownOpcode ∧
      OrdinaryStep s { t with result := .ok } (s.pc + 2#16) []) ∧
  (∀ (s : State) (nnn : BitVec 12),
    ∃ t, exec (.sys nnn) s = .next t ∧ t.result = .unknownOpcode ∧
      OrdinaryStep s { t with result := .ok } (s.pc + 2#16) [])

/-- No instruction is refused: every one answers a next state or one of the three faults (30_encoding.md R89). -/
def Obligations.EveryInstructionCompletesOrFaults : Prop :=
  (∀ (i : Instr) (s : State), (∃ t, exec i s = .next t) ∨ ∃ f, exec i s = .fault f) ∧
  ∀ s : State, (∃ t, step s = .next t) ∨ ∃ f, step s = .fault f

/-- A step faults for the causes of 60_exceptions.md R201 to R203 and no other, with the first offending address, and
the state after it is the state before it but for the result (decision D5; the address in the fault is assumption log
15). -/
def Obligations.FaultsHaveExactlyTheListedCauses : Prop :=
  (∀ (i : Instr) (s : State) (f : Fault), exec i s = .fault f ↔ FaultCause i s f) ∧
  (∀ (s : State) (f : Fault), step s = .fault f ↔
    (s.pc.toNat ≥ 4095 ∧ f = .memoryFault (max s.pc.toNat 4096)) ∨
    ∃ op i, fetch s = .ok op ∧ decode op = .ok i ∧ FaultCause i s f) ∧
  ∀ (s : State) (f : Fault), step s = .fault f → stepEvent s = { s with result := f.result }

/-- After a rollback fault every further step raises the same fault and changes nothing (60_exceptions.md R219). -/
def Obligations.FaultRepeatsUntilReset : Prop :=
  ∀ (s : State) (f : Fault), step s = .fault f → ∀ n : Nat,
    stepEvent^[n + 1] s = { s with result := f.result } ∧ step (stepEvent^[n + 1] s) = .fault f

/-- The result is an output: no step reads the one before it (40_step_cycle.md R110, 60_exceptions.md R210). -/
def Obligations.StepDoesNotReadTheResult : Prop :=
  ∀ (s : State) (r : StepResult), step { s with result := r } = step s

/-- Only CXNN reads or consumes the random input (40_step_cycle.md R111, 41_arithmetic_logic.md R133). -/
def Obligations.OnlyRandomReadsTheRandomInput : Prop :=
  ∀ (i : Instr) (s : State) (rs : List Byte) (d : Nat), (∀ x nn, i ≠ .rnd x nn) →
    exec i { s with rands := rs, draws := d } = withRandInput rs d (exec i s)

/-- PC after every instruction, with what a call pushes, and after a fault (10_state.md R26; the conditions of the skips
from 42_control_flow.md R145 to R148 and 46_input.md R190, R191). The popped entry after RET is the reading of conflict C3,
the call's push decision D16, V0 in the computed jump decision D20, the low nibble in the key skips decision D12, SYS
decision D3. -/
def Obligations.PcMovesAsTheTableSays : Prop :=
  (∀ (i : Instr) (s t : State), exec i s = .next t →
    (∀ nnn, i = .jp nnn ∨ i = .call nnn → t.pc.toNat = nnn.toNat) ∧
    (∀ nnn, i = .call nnn → ∃ h : s.sp.val < 16, t.stack[s.sp.val] = s.pc + 2#16) ∧
    (∀ nnn, i = .jpV0 nnn → t.pc.toNat = nnn.toNat + (s.getV V0).toNat) ∧
    (i = .ret → ∃ h : s.sp.val - 1 < 16, t.pc = s.stack[s.sp.val - 1]) ∧
    (∀ x, i = .ldVxK x → NoKey s → t.pc = s.pc) ∧
    (∀ x, i = .ldVxK x → ¬ NoKey s → t.pc = s.pc + 2#16) ∧
    ((∀ nnn, i ≠ .jp nnn ∧ i ≠ .call nnn ∧ i ≠ .jpV0 nnn) → i ≠ .ret → (∀ x, i ≠ .ldVxK x) →
      t.pc = if skips i s = true then s.pc + 4#16 else s.pc + 2#16)) ∧
  (∀ (s : State) (op : Word) (e : DecodeError), fetch s = .ok op → decode op = .error e →
    (stepEvent s).pc = s.pc + 2#16) ∧
  ∀ (s : State) (f : Fault), step s = .fault f → (stepEvent s).pc = s.pc

/-- Every completed step ticks both timers once, and a held step none (40_step_cycle.md R107, 10_state.md R33). -/
def Obligations.TimersTickOncePerCompletedStep : Prop :=
  ∀ (i : Instr) (s t : State), exec i s = .next t →
    ((∃ x, i = .ldVxK x) ∧ NoKey s ∧ t.dt = s.dt ∧ t.st = s.st) ∨
    (¬ ((∃ x, i = .ldVxK x) ∧ NoKey s) ∧
      t.dt.toNat = (match i with | .ldDtVx x => (s.getV x).toNat | _ => s.dt.toNat) - 1 ∧
      t.st.toNat = (match i with | .ldStVx x => (s.getV x).toNat | _ => s.st.toNat) - 1)

/-! ### Arithmetic, logic, random -/

/-- LD Vx, nn and ADD Vx, nn (41_arithmetic_logic.md R121, R122; general knowledge in the spec). -/
def Obligations.LoadAndAddImmediate : Prop :=
  ∀ (x : Reg) (nn : Byte) (s : State),
    (∃ t, exec (.ldImm x nn) s = .next t ∧ t.getV x = nn ∧ OrdinaryStep s t (s.pc + 2#16) [x]) ∧
    ∃ t, exec (.addImm x nn) s = .next t ∧
      (t.getV x).toNat = ((s.getV x).toNat + nn.toNat) % 256 ∧ OrdinaryStep s t (s.pc + 2#16) [x]

/-- LD Vx, Vy; OR, AND, XOR Vx, Vy, bit by bit, with no flag (41_arithmetic_logic.md R123 to R126; decision D8). -/
def Obligations.CopyAndLogicOperations : Prop :=
  ∀ (x y : Reg) (s : State),
    (∃ t, exec (.ldReg x y) s = .next t ∧ t.getV x = s.getV y ∧ OrdinaryStep s t (s.pc + 2#16) [x]) ∧
    (∃ t, exec (.orReg x y) s = .next t ∧ OrdinaryStep s t (s.pc + 2#16) [x] ∧
      ∀ k, (t.getV x).getLsbD k = ((s.getV x).getLsbD k || (s.getV y).getLsbD k)) ∧
    (∃ t, exec (.andReg x y) s = .next t ∧ OrdinaryStep s t (s.pc + 2#16) [x] ∧
      ∀ k, (t.getV x).getLsbD k = ((s.getV x).getLsbD k && (s.getV y).getLsbD k)) ∧
    ∃ t, exec (.xorReg x y) s = .next t ∧ OrdinaryStep s t (s.pc + 2#16) [x] ∧
      ∀ k, (t.getV x).getLsbD k = ((s.getV x).getLsbD k ^^ (s.getV y).getLsbD k)

/-- ADD Vx, Vy: the sum modulo 256, and VF is the carry, which survives X = F (41_arithmetic_logic.md R127). -/
def Obligations.AddRegistersSetsCarry : Prop :=
  ∀ (x y : Reg) (s : State), ∃ t, exec (.addReg x y) s = .next t ∧
    (x ≠ VF → (t.getV x).toNat = ((s.getV x).toNat + (s.getV y).toNat) % 256) ∧
    t.getV VF = (if (s.getV x).toNat + (s.getV y).toNat > 255 then 1#8 else 0#8) ∧
    OrdinaryStep s t (s.pc + 2#16) [x, VF]

/-- SUB Vx, Vy: the difference modulo 256, and VF is not-borrow (41_arithmetic_logic.md R128). -/
def Obligations.SubtractSetsNotBorrow : Prop :=
  ∀ (x y : Reg) (s : State), ∃ t, exec (.subReg x y) s = .next t ∧
    (x ≠ VF → ((t.getV x).toNat : Int) = ((s.getV x).toNat - (s.getV y).toNat : Int) % 256) ∧
    t.getV VF = (if (s.getV x).toNat ≥ (s.getV y).toNat then 1#8 else 0#8) ∧
    OrdinaryStep s t (s.pc + 2#16) [x, VF]

/-- SUBN Vx, Vy: the same with the operands reversed (41_arithmetic_logic.md R130; general knowledge in the spec). -/
def Obligations.ReversedSubtractSetsNotBorrow : Prop :=
  ∀ (x y : Reg) (s : State), ∃ t, exec (.subnReg x y) s = .next t ∧
    (x ≠ VF → ((t.getV x).toNat : Int) = ((s.getV y).toNat - (s.getV x).toNat : Int) % 256) ∧
    t.getV VF = (if (s.getV y).toNat ≥ (s.getV x).toNat then 1#8 else 0#8) ∧
    OrdinaryStep s t (s.pc + 2#16) [x, VF]

/-- SHR Vx and SHL Vx: by one bit, VF is the bit shifted out, and every Y field decodes to the same instruction
(41_arithmetic_logic.md R129, R131; that Vx is shifted is decision D7). -/
def Obligations.ShiftsMoveOneBitIntoTheFlag : Prop :=
  (∀ (x : Reg) (s : State), ∃ t, exec (.shr x) s = .next t ∧
    (x ≠ VF → (t.getV x).toNat = (s.getV x).toNat / 2) ∧
    t.getV VF = (if (s.getV x).toNat % 2 = 1 then 1#8 else 0#8) ∧ OrdinaryStep s t (s.pc + 2#16) [x, VF]) ∧
  (∀ (x : Reg) (s : State), ∃ t, exec (.shl x) s = .next t ∧
    (x ≠ VF → (t.getV x).toNat = (s.getV x).toNat * 2 % 256) ∧
    t.getV VF = (if (s.getV x).toNat ≥ 128 then 1#8 else 0#8) ∧ OrdinaryStep s t (s.pc + 2#16) [x, VF]) ∧
  ∀ x y : Reg, decode (wordXYN 0x8#4 x y 0x6#4) = .ok (.shr x) ∧ decode (wordXYN 0x8#4 x y 0xE#4) = .ok (.shl x)

/-- RND Vx, nn: a byte the host supplied is masked and consumed; whatever the byte, the result's bits are a subset of
the mask's (41_arithmetic_logic.md R133; the input is decision D25, its queue assumption log 3). -/
def Obligations.RandomIsMaskedAndConsumesOneByte : Prop :=
  ∀ (x : Reg) (nn : Byte) (s : State), ∃ t, exec (.rnd x nn) s = .next t ∧
    t.getV x &&& ~~~nn = 0#8 ∧
    (∀ b rest, s.rands = b :: rest → t.getV x = b &&& nn ∧ t.rands = rest) ∧
    (s.rands = [] → t.rands = []) ∧ t.draws = s.draws + 1 ∧
    OrdinaryStep { s with rands := t.rands, draws := t.draws } t (s.pc + 2#16) [x]

/-! ### Control flow -/

/-- JP nnn (42_control_flow.md R143). -/
def Obligations.JumpSetsPc : Prop :=
  ∀ (nnn : BitVec 12) (s : State), ∃ t, exec (.jp nnn) s = .next t ∧
    t.pc.toNat = nnn.toNat ∧ OrdinaryStep s t t.pc []

/-- CALL nnn: with room, PC + 2 is pushed; with sixteen entries in use, StackOverflow and nothing changes
(42_control_flow.md R144; the saved value is decision D16). -/
def Obligations.CallPushesTheReturnAddress : Prop :=
  ∀ (nnn : BitVec 12) (s : State),
    (∀ h : s.sp.val < 16, ∃ t, exec (.call nnn) s = .next t ∧ t.pc.toNat = nnn.toNat ∧
      t.sp.val = s.sp.val + 1 ∧ t.stack[s.sp.val] = s.pc + 2#16 ∧
      (∀ k (hk : k < 16), k ≠ s.sp.val → t.stack[k] = s.stack[k]) ∧
      OrdinaryStep { s with sp := t.sp, stack := t.stack } t t.pc []) ∧
    (s.sp.val = 16 → exec (.call nnn) s = .fault .stackOverflow ∧
      afterStep s (exec (.call nnn) s) = { s with result := .stackOverflow })

/-- RET: PC is the popped entry with no + 2, and the entry stays in S; with none in use, StackUnderflow and nothing
changes (42_control_flow.md R142; that the entry stays is decision D30). -/
def Obligations.ReturnPopsTheReturnAddress : Prop :=
  ∀ s : State,
    (s.sp.val ≠ 0 → ∃ t, exec .ret s = .next t ∧ t.sp.val + 1 = s.sp.val ∧ t.stack = s.stack ∧
      (∃ h : t.sp.val < 16, t.pc = s.stack[t.sp.val]) ∧ OrdinaryStep { s with sp := t.sp } t t.pc []) ∧
    (s.sp.val = 0 → exec .ret s = .fault .stackUnderflow ∧
      afterStep s (exec .ret s) = { s with result := .stackUnderflow })

/-- CALL and then RET come back to the instruction after the call, at the same depth (42_control_flow.md R142, R144;
95_test_vectors.md S7). -/
def Obligations.CallThenReturnComesBack : Prop :=
  ∀ (nnn : BitVec 12) (s t : State), exec (.call nnn) s = .next t →
    ∃ u, exec .ret t = .next u ∧ u.pc = s.pc + 2#16 ∧ u.sp = s.sp

/-- JP V0, nnn: the sum is not reduced (42_control_flow.md R149; V0 is decision D20). -/
def Obligations.ComputedJumpAddsV0 : Prop :=
  ∀ (nnn : BitVec 12) (s : State), ∃ t, exec (.jpV0 nnn) s = .next t ∧
    t.pc.toNat = nnn.toNat + (s.getV 0).toNat ∧ OrdinaryStep s t t.pc []

/-- SE Vx, nn and SNE Vx, nn (42_control_flow.md R145, R146). -/
def Obligations.SkipOnImmediateComparison : Prop :=
  ∀ (x : Reg) (nn : Byte) (s : State),
    (∃ t, exec (.seImm x nn) s = .next t ∧
      OrdinaryStep s t (if s.getV x = nn then s.pc + 4#16 else s.pc + 2#16) []) ∧
    ∃ t, exec (.sneImm x nn) s = .next t ∧
      OrdinaryStep s t (if s.getV x = nn then s.pc + 2#16 else s.pc + 4#16) []

/-- SE Vx, Vy and SNE Vx, Vy, and that their low nibble must be 0 (42_control_flow.md R147, R148). -/
def Obligations.SkipOnRegisterComparison : Prop :=
  (∀ (x y : Reg) (s : State),
    (∃ t, exec (.seReg x y) s = .next t ∧
      OrdinaryStep s t (if s.getV x = s.getV y then s.pc + 4#16 else s.pc + 2#16) []) ∧
    ∃ t, exec (.sneReg x y) s = .next t ∧
      OrdinaryStep s t (if s.getV x = s.getV y then s.pc + 2#16 else s.pc + 4#16) []) ∧
  ∀ (x y : Reg) (n : BitVec 4), n ≠ 0 →
    decode (wordXYN 0x5#4 x y n) = .error (.unknownOpcode (wordXYN 0x5#4 x y n)) ∧
    decode (wordXYN 0x9#4 x y n) = .error (.unknownOpcode (wordXYN 0x9#4 x y n))

/-! ### Index and memory -/

/-- LD I, nnn; ADD I, Vx modulo 65536; LD F, Vx from the low nibble (43_memory_index.md R161 to R163; decisions D11,
D12). -/
def Obligations.IndexRegisterIsSet : Prop :=
  ∀ (nnn : BitVec 12) (x : Reg) (s : State),
    (∃ t, exec (.ldI nnn) s = .next t ∧ t.i.toNat = nnn.toNat ∧
      OrdinaryStep { s with i := t.i } t (s.pc + 2#16) []) ∧
    (∃ t, exec (.addI x) s = .next t ∧ t.i.toNat = (s.i.toNat + (s.getV x).toNat) % 65536 ∧
      OrdinaryStep { s with i := t.i } t (s.pc + 2#16) []) ∧
    ∃ t, exec (.ldF x) s = .next t ∧ t.i.toNat = 5 * ((s.getV x).toNat % 16) ∧
      OrdinaryStep { s with i := t.i } t (s.pc + 2#16) []

/-- LD B, Vx: hundreds, tens, ones at I, I + 1, I + 2 and no other byte; a range past the end faults
(43_memory_index.md R164; the order is decision D19, the address in the fault assumption log 15). -/
def Obligations.DecimalDigitsAreStoredAtI : Prop :=
  ∀ (x : Reg) (s : State),
    (s.i.toNat + 2 < 4096 → ∃ t, exec (.ldB x) s = .next t ∧
      (t.mem.read s.i.toNat).toNat = (s.getV x).toNat / 100 ∧
      (t.mem.read (s.i.toNat + 1)).toNat = (s.getV x).toNat / 10 % 10 ∧
      (t.mem.read (s.i.toNat + 2)).toNat = (s.getV x).toNat % 10 ∧
      (∀ a, ¬ (s.i.toNat ≤ a ∧ a ≤ s.i.toNat + 2) → t.mem.read a = s.mem.read a) ∧
      OrdinaryStep { s with mem := t.mem } t (s.pc + 2#16) []) ∧
    (s.i.toNat + 2 ≥ 4096 → exec (.ldB x) s = .fault (.memoryFault (max s.i.toNat 4096)))

/-- LD [I], Vx: V0 to Vx at I upward and no other byte, I unchanged; a range past the end faults
(43_memory_index.md R165; I is decision D10, the address in the fault assumption log 15). -/
def Obligations.BlockStoreWritesRegistersAtI : Prop :=
  ∀ (x : Reg) (s : State),
    (s.i.toNat + x.val < 4096 → ∃ t, exec (.storeRegs x) s = .next t ∧
      (∀ r : Reg, r ≤ x → t.mem.read (s.i.toNat + r.val) = s.getV r) ∧
      (∀ a, ¬ (s.i.toNat ≤ a ∧ a ≤ s.i.toNat + x.val) → t.mem.read a = s.mem.read a) ∧
      OrdinaryStep { s with mem := t.mem } t (s.pc + 2#16) []) ∧
    (s.i.toNat + x.val ≥ 4096 → exec (.storeRegs x) s = .fault (.memoryFault (max s.i.toNat 4096)))

/-- LD Vx, [I]: V0 to Vx from I upward and no other register, I and memory unchanged; a range past the end faults
(43_memory_index.md R166; I is decision D10, the address in the fault assumption log 15). -/
def Obligations.BlockLoadReadsRegistersFromI : Prop :=
  ∀ (x : Reg) (s : State),
    (s.i.toNat + x.val < 4096 → ∃ t, exec (.loadRegs x) s = .next t ∧
      (∀ r : Reg, r ≤ x → t.getV r = s.mem.read (s.i.toNat + r.val)) ∧
      OrdinaryStep s t (s.pc + 2#16) ((List.finRange 16).filter (fun r => decide (r ≤ x)))) ∧
    (s.i.toNat + x.val ≥ 4096 → exec (.loadRegs x) s = .fault (.memoryFault (max s.i.toNat 4096)))

/-- A block store and then a block load of as many registers, in any state with that memory and I, restores them
(43_memory_index.md R165, R166; 20_memory.md R69 (c)). -/
def Obligations.BlockLoadUndoesBlockStore : Prop :=
  ∀ (x : Reg) (s t u : State), exec (.storeRegs x) s = .next t → u.mem = t.mem → u.i = t.i →
    ∃ w, exec (.loadRegs x) u = .next w ∧ ∀ r : Reg, r ≤ x → w.getV r = s.getV r

/-- A store into the next instruction is what the next step fetches (20_memory.md R71, 70_reset_and_hazards.md R235). -/
def Obligations.StoredInstructionIsFetchedNext : Prop :=
  ∀ (x : Reg) (s t : State), x ≠ 0 → s.i = s.pc + 2#16 → exec (.storeRegs x) s = .next t →
    fetch t = .ok (s.getV 0 ++ s.getV 1)

/-! ### Display -/

/-- CLS: every cell 0, dirty raised, no flag (44_display.md R171). -/
def Obligations.ClearBlanksTheDisplay : Prop :=
  ∀ s : State, ∃ t, exec .cls s = .next t ∧ (∀ y x, t.display.cell y x = false) ∧ t.dirty = true ∧
    OrdinaryStep { s with display := t.display, dirty := true } t (s.pc + 2#16) []

/-- DRW Vx, Vy, n: a cell is inverted exactly when a set sprite bit lies on it, VF says whether one of those was set
before, dirty is raised; a sprite past the end of memory faults, one of no rows never does (44_display.md R172, R173;
the bit order is decision D17, the address in the fault assumption log 15). -/
def Obligations.DrawInvertsExactlyTheSpriteCells : Prop :=
  ∀ (x y : Reg) (n : BitVec 4) (s : State),
    (n.toNat = 0 ∨ s.i.toNat + n.toNat ≤ 4096 → ∃ t, exec (.drw x y n) s = .next t ∧
      (∀ py px, t.display.cell py px ≠ s.display.cell py px ↔ SpriteOn s x y n py px) ∧
      ((∃ py px, SpriteOn s x y n py px ∧ s.display.cell py px = true) → t.getV VF = 1#8) ∧
      (¬ (∃ py px, SpriteOn s x y n py px ∧ s.display.cell py px = true) → t.getV VF = 0#8) ∧
      OrdinaryStep { s with display := t.display, dirty := true } t (s.pc + 2#16) [VF]) ∧
    (n.toNat ≠ 0 ∧ s.i.toNat + n.toNat > 4096 →
      exec (.drw x y n) s = .fault (.memoryFault (max s.i.toNat 4096)))

/-- The same sprite drawn twice at the same coordinates restores the display, and the second draw's flag says whether
the first draw had set a cell; over cells that were 0, that is whether the sprite has a set bit (44_display.md R174; the
flag by R172, assumption log 18). -/
def Obligations.DrawTwiceRestoresTheDisplay : Prop :=
  ∀ (x y : Reg) (n : BitVec 4) (s t : State), exec (.drw x y n) s = .next t →
    t.getV x = s.getV x → t.getV y = s.getV y →
    ∃ u, exec (.drw x y n) t = .next u ∧ u.display = s.display ∧
      (u.getV VF = 1#8 ↔ ∃ py px, s.display.cell py px = false ∧ t.display.cell py px = true) ∧
      ((∀ py px, SpriteOn s x y n py px → s.display.cell py px = false) →
        (u.getV VF = 1#8 ↔ ∃ r c, r < n.toNat ∧ c < 8 ∧ (s.mem.read (s.i.toNat + r)).getLsbD c = true))

/-! ### Timers and keys -/

/-- LD Vx, DT reads before the tick; LD DT, Vx and LD ST, Vx are ticked in their own step (45_timers.md R181 to R183;
general knowledge in the spec; the sound output is decision D23). -/
def Obligations.TimerInstructionsActBeforeTheTick : Prop :=
  ∀ (x : Reg) (s : State),
    (∃ t, exec (.ldVxDt x) s = .next t ∧ t.getV x = s.dt ∧ OrdinaryStep s t (s.pc + 2#16) [x]) ∧
    (∃ t, exec (.ldDtVx x) s = .next t ∧ t.dt.toNat = (s.getV x).toNat - 1 ∧
      OrdinaryStep { s with dt := s.getV x } t (s.pc + 2#16) []) ∧
    ∃ t, exec (.ldStVx x) s = .next t ∧ t.st.toNat = (s.getV x).toNat - 1 ∧
      (t.soundActive = true ↔ 2 ≤ (s.getV x).toNat) ∧ OrdinaryStep { s with st := s.getV x } t (s.pc + 2#16) []

/-- SKP Vx and SKNP Vx test the key numbered by the low nibble of Vx (46_input.md R190, R191, R193; decision D12). -/
def Obligations.SkipOnKeyState : Prop :=
  ∀ (x : Reg) (s : State), ∃ h : (s.getV x).toNat % 16 < 16,
    (∃ t, exec (.skp x) s = .next t ∧
      OrdinaryStep s t (if s.keys[(s.getV x).toNat % 16] = true then s.pc + 4#16 else s.pc + 2#16) []) ∧
    ∃ t, exec (.sknp x) s = .next t ∧
      OrdinaryStep s t (if s.keys[(s.getV x).toNat % 16] = true then s.pc + 2#16 else s.pc + 4#16) []

/-- LD Vx, K with no key set: mode is WaitingForKey, the result Ok, and nothing else changes (40_step_cycle.md R105). -/
def Obligations.KeyWaitHoldsWhileNoKeyIsSet : Prop :=
  ∀ (x : Reg) (s : State), NoKey s →
    exec (.ldVxK x) s = .next { s with mode := .waitingForKey, result := .ok }

/-- LD Vx, K with a key set: the lowest set key's index, mode Running, and the step completes (46_input.md R192; the
lowest is decision D13). -/
def Obligations.KeyWaitReportsTheLowestKey : Prop :=
  ∀ (x : Reg) (s : State) (k : Nat) (h : k < 16), s.keys[k] = true → (∀ j (hj : j < k), s.keys[j] = false) →
    ∃ t, exec (.ldVxK x) s = .next t ∧ (t.getV x).toNat = k ∧
      OrdinaryStep { s with mode := .running } t (s.pc + 2#16) [x]

/-- With no key set, any number of steps at an FX0A changes only mode and result (40_step_cycle.md R106; 46_input.md R192;
95_test_vectors.md S8). -/
def Obligations.KeyWaitRepeatsWithoutProgress : Prop :=
  ∀ (n : Nat) (s : State) (op : Word) (x : Reg), fetch s = .ok op → decode op = .ok (.ldVxK x) → NoKey s →
    Host.Core.run Sys2Proof.core (n + 1) s = .next { s with mode := .waitingForKey, result := .ok }

/-! ### Which instruction writes what -/

/-- Only FX33 and FX55 change memory (the table of 20_memory.md R67). -/
def Obligations.OnlyStoresChangeMemory : Prop :=
  ∀ (i : Instr) (s t : State), exec i s = .next t → (∀ x, i ≠ .ldB x ∧ i ≠ .storeRegs x) →
    ∀ a, t.mem.read a = s.mem.read a

/-- Only ANNN, FX1E and FX29 change I (10_state.md R24). -/
def Obligations.OnlyIndexInstructionsChangeI : Prop :=
  ∀ (i : Instr) (s t : State), exec i s = .next t → (∀ nnn, i ≠ .ldI nnn) → (∀ x, i ≠ .addI x ∧ i ≠ .ldF x) →
    t.i = s.i

/-- Only 2NNN and 00EE change the call stack (10_state.md R28, R29). -/
def Obligations.OnlyCallAndReturnChangeTheStack : Prop :=
  ∀ (i : Instr) (s t : State), exec i s = .next t → i ≠ .ret → (∀ nnn, i ≠ .call nnn) →
    t.sp = s.sp ∧ t.stack = s.stack

/-- Only 00E0 and DXYN change the display or the dirty flag, both raise it, and none clears it (10_state.md R35, R37). -/
def Obligations.OnlyClearAndDrawTouchTheScreen : Prop :=
  ∀ (i : Instr) (s t : State), exec i s = .next t →
    ((i ≠ .cls ∧ ∀ x y n, i ≠ .drw x y n) → t.display = s.display ∧ t.dirty = s.dirty) ∧
    ((i = .cls ∨ ∃ x y n, i = .drw x y n) → t.dirty = true)

/-- No instruction writes the key latch, and only FX0A writes mode (10_state.md R39, R41). -/
def Obligations.KeysAreReadOnlyAndModeIsTheWaits : Prop :=
  ∀ (i : Instr) (s t : State), exec i s = .next t →
    t.keys = s.keys ∧ ((∀ x, i ≠ .ldVxK x) → t.mode = s.mode)

/-- An instruction writes no register outside its row of the table of 10_state.md R23. -/
def Obligations.RegistersAreWrittenAsTheTableSays : Prop :=
  ∀ (i : Instr) (s t : State) (r : Reg), exec i s = .next t → ¬ mayWriteReg i r → t.getV r = s.getV r

/-- The six flag writers always leave 0 or 1 in VF; any other instruction leaves VF alone unless its X field names it
or a block load reaches it (10_state.md R22). -/
def Obligations.FlagIsWrittenByExactlySixInstructions : Prop :=
  ∀ (i : Instr) (s t : State), exec i s = .next t →
    (isFlagWriter i = true → t.getV VF = 0#8 ∨ t.getV VF = 1#8) ∧
    (isFlagWriter i = false → ¬ mayWriteReg i VF → t.getV VF = s.getV VF)

/-! ### Invariants -/

/-- Every step keeps memory in its canonical form and inside the address space (20_memory.md R51, R52; the form is
assumption log 6). -/
def Obligations.StepKeepsMemoryCanonical : Prop :=
  ∀ s t : State, MemoryCanonical s → step s = .next t → MemoryCanonical t

/-- Every step keeps PC at most 0x10FE and every stack entry at most 4096: PC arithmetic never wraps (10_state.md R27). -/
def Obligations.StepKeepsAddressesBounded : Prop :=
  ∀ s t : State, AddressesBounded s → step s = .next t → AddressesBounded t

/-- Every step keeps an FX0A at PC while the machine waits for a key (10_state.md R41). -/
def Obligations.StepKeepsWaitAtKeyWait : Prop :=
  ∀ s t : State, WaitsAtKeyWait s → step s = .next t → WaitsAtKeyWait t

/-- The reset state meets the three invariants: the bounds of 10_state.md R27 and the key wait of R41 at the values of R45;
that its memory is in canonical form is the model's choice of form, assumption log 6. -/
def Obligations.ResetMeetsTheInvariants : Prop :=
  MemoryCanonical State.reset ∧ AddressesBounded State.reset ∧ WaitsAtKeyWait State.reset

/-! ### Reset and the host -/

/-- The state after reset, at start and from any state: font, zeros, PC = 0x200, mode Running (10_state.md R45,
70_reset_and_hazards.md R230; decisions D4, D18, D22). -/
def Obligations.ResetSetsEveryElement : Prop :=
  AtReset State.reset ∧ ∀ s : State, AtReset (resetEvent s)

/-- `load`: too long a program changes nothing; any other is copied to 0x200 upward and nothing else changes
(20_memory.md R61). -/
def Obligations.LoadCopiesTheProgram : Prop :=
  ∀ (s : State) (bytes : List Byte),
    (bytes.length > 3584 → load s bytes = (.romTooLarge, s)) ∧
    (bytes.length ≤ 3584 → ∃ t, load s bytes = (.ok, t) ∧
      (∀ k (h : k < bytes.length), t.mem.read (0x200 + k) = bytes[k]) ∧
      (∀ a, ¬ (0x200 ≤ a ∧ a < 0x200 + bytes.length) → t.mem.read a = s.mem.read a) ∧
      t = { s with mem := t.mem })

/-- After a reset and a load, the first step fetches the program's first two bytes (70_reset_and_hazards.md R231, R232). -/
def Obligations.LoadedProgramIsFetchedFirst : Prop :=
  ∀ (s : State) (b0 b1 : Byte) (rest : List Byte), rest.length + 2 ≤ 3584 →
    fetch (load (resetEvent s) (b0 :: b1 :: rest)).2 = .ok (b0 ++ b1)

/-- A load in an open window happens, whatever it returns; a load or a step closes the window, only a reset opens it, and
a load outside it is refused (20_memory.md R61, R62; decision D27, assumption log 11). -/
def Obligations.LoadIsAdmittedOnceInItsWindow : Prop :=
  (∀ h : Session, h.loadOpen = true → ∀ bytes, ∃ h', h.act (.load bytes) = .next h' ∧
    h'.core = (load h.core bytes).2 ∧ h'.lastLoad = some (load h.core bytes).1) ∧
  (∀ h : Session, (∀ e h', h.act e = .next h' → (e = .step ∨ ∃ bytes, e = .load bytes) → h'.loadOpen = false)) ∧
  (∀ h : Session, h.loadOpen = false →
    (∀ bytes, h.act (.load bytes) = .refused .loadOutsideWindow) ∧
    ∀ e h', e ≠ .reset → h.act e = .next h' → h'.loadOpen = false) ∧
  ∀ h : Session, ∃ h', h.act .reset = .next h' ∧ h'.loadOpen = true

/-- `set_key` writes one bit of the latch and refuses an index above 15 (assumption log 14); `clear_dirty` clears the
flag and nothing else, in every state, rendered or not (assumption log 17); a random byte the host supplies is queued last
and changes nothing else (assumption log 3). 10_state.md R38, R40; 60_exceptions.md R206; 70_reset_and_hazards.md R240. -/
def Obligations.SetKeyClearDirtyAndSupplyRandWriteOneElement : Prop :=
  (∀ (s : State) (index : Nat) (p : Bool),
    (∀ h : index < 16, ∃ t, setKey s index p = .next t ∧ t.keys[index] = p ∧
      (∀ k (hk : k < 16), k ≠ index → t.keys[k] = s.keys[k]) ∧ t = { s with keys := t.keys }) ∧
    (16 ≤ index → setKey s index p = .refused (.keyIndexOutOfRange index))) ∧
  (∀ s : State, (clearDirty s).dirty = false ∧ clearDirty s = { s with dirty := (clearDirty s).dirty }) ∧
  ∀ (s : State) (b : Byte), (supplyRand s b).rands = s.rands ++ [b] ∧
    supplyRand s b = { s with rands := (supplyRand s b).rands }

/-- At the model's end of a run, a jump to itself, every step completes, stays there and changes only the timers
(42_control_flow.md R143; 70_reset_and_hazards.md R246; assumption log 13). -/
def Obligations.EndOfRunIsStable : Prop :=
  ∀ s : State, endOfRun s = true → ∃ t, step s = .next t ∧ endOfRun t = true ∧ OrdinaryStep s t s.pc []
end

