-- ==== Sys2Proof/Laws/Decode.lean ====
section
/-! SUPPORT. Words and their fields as numbers: what each field reads, what each encoder format writes, and that a field
of an encoded word is the operand it was made from. -/

namespace Sys2Proof

theorem append_toNat {n m : Nat} (x : BitVec n) (y : BitVec m) : (x ++ y).toNat = x.toNat * 2 ^ m + y.toNat := by
  rw [BitVec.toNat_append, ← Nat.shiftLeft_add_eq_or_of_lt y.isLt, Nat.shiftLeft_eq]

@[simp] theorem regBits_toNat (r : Reg) : (regBits r).toNat = r.val := rfl

/-! ### Fields of a word -/

theorem fieldF_toNat (op : Word) : (fieldF op).toNat = op.toNat / 4096 := by
  simp [fieldF, BitVec.extractLsb'_toNat, Nat.shiftRight_eq_div_pow]; omega

theorem fieldX_val (op : Word) : (fieldX op).val = op.toNat / 256 % 16 := by
  show (op.extractLsb' 8 4).toNat = _
  simp [BitVec.extractLsb'_toNat, Nat.shiftRight_eq_div_pow]

theorem fieldY_val (op : Word) : (fieldY op).val = op.toNat / 16 % 16 := by
  show (op.extractLsb' 4 4).toNat = _
  simp [BitVec.extractLsb'_toNat, Nat.shiftRight_eq_div_pow]

theorem fieldN_toNat (op : Word) : (fieldN op).toNat = op.toNat % 16 := by
  simp [fieldN, BitVec.extractLsb'_toNat]

theorem fieldNN_toNat (op : Word) : (fieldNN op).toNat = op.toNat % 256 := by
  simp [fieldNN, BitVec.extractLsb'_toNat]

theorem fieldNNN_toNat (op : Word) : (fieldNNN op).toNat = op.toNat % 4096 := by
  simp [fieldNNN, BitVec.extractLsb'_toNat]

/-- Big-endian composition as a number (20_memory.md R63). -/
theorem composeWord_toNat (hi lo : Byte) : (composeWord hi lo).toNat = hi.toNat * 256 + lo.toNat :=
  append_toNat hi lo

/-! ### Words from fields -/

theorem wordA_toNat (f : BitVec 4) (nnn : BitVec 12) : (wordA f nnn).toNat = f.toNat * 4096 + nnn.toNat :=
  append_toNat f nnn

theorem wordXI_toNat (f : BitVec 4) (x : Reg) (nn : Byte) :
    (wordXI f x nn).toNat = f.toNat * 4096 + (x.val * 256 + nn.toNat) :=
  (append_toNat f _).trans (congrArg (f.toNat * 4096 + ·) (append_toNat (regBits x) nn))

theorem wordXYN_toNat (f : BitVec 4) (x y : Reg) (n : BitVec 4) :
    (wordXYN f x y n).toNat = f.toNat * 4096 + (x.val * 256 + (y.val * 16 + n.toNat)) := by
  refine (append_toNat f _).trans (congrArg (f.toNat * 4096 + ·) ?_)
  exact (append_toNat (regBits x) _).trans (congrArg (x.val * 256 + ·) (append_toNat (regBits y) n))

/-! ### Fields of an encoded word -/

theorem fieldF_wordA (f : BitVec 4) (nnn : BitVec 12) : fieldF (wordA f nnn) = f := by
  apply BitVec.eq_of_toNat_eq; rw [fieldF_toNat, wordA_toNat]; omega

theorem fieldNNN_wordA (f : BitVec 4) (nnn : BitVec 12) : fieldNNN (wordA f nnn) = nnn := by
  apply BitVec.eq_of_toNat_eq; rw [fieldNNN_toNat, wordA_toNat]; omega

theorem fieldF_wordXI (f : BitVec 4) (x : Reg) (nn : Byte) : fieldF (wordXI f x nn) = f := by
  apply BitVec.eq_of_toNat_eq; rw [fieldF_toNat, wordXI_toNat]; omega

theorem fieldX_wordXI (f : BitVec 4) (x : Reg) (nn : Byte) : fieldX (wordXI f x nn) = x := by
  apply Fin.eq_of_val_eq; rw [fieldX_val, wordXI_toNat]; omega

theorem fieldNN_wordXI (f : BitVec 4) (x : Reg) (nn : Byte) : fieldNN (wordXI f x nn) = nn := by
  apply BitVec.eq_of_toNat_eq; rw [fieldNN_toNat, wordXI_toNat]; omega

theorem fieldF_wordXYN (f : BitVec 4) (x y : Reg) (n : BitVec 4) : fieldF (wordXYN f x y n) = f := by
  apply BitVec.eq_of_toNat_eq; rw [fieldF_toNat, wordXYN_toNat]; omega

theorem fieldX_wordXYN (f : BitVec 4) (x y : Reg) (n : BitVec 4) : fieldX (wordXYN f x y n) = x := by
  apply Fin.eq_of_val_eq; rw [fieldX_val, wordXYN_toNat]; omega

theorem fieldY_wordXYN (f : BitVec 4) (x y : Reg) (n : BitVec 4) : fieldY (wordXYN f x y n) = y := by
  apply Fin.eq_of_val_eq; rw [fieldY_val, wordXYN_toNat]; omega

theorem fieldN_wordXYN (f : BitVec 4) (x y : Reg) (n : BitVec 4) : fieldN (wordXYN f x y n) = n := by
  apply BitVec.eq_of_toNat_eq; rw [fieldN_toNat, wordXYN_toNat]; omega

end Sys2Proof
end

