-- ==== Sys2Proof/Laws/Memory.lean ====
section
/-! SUPPORT. The laws of memory: what a read gives after a write, and that every operation keeps the canonical form. -/

namespace Sys2Proof.Machine

@[simp] theorem Memory.read_nil (a : Nat) : Memory.read [] a = Memory.unlisted a := rfl

theorem Memory.read_erase (m : Memory) (a x : Nat) :
    (Memory.erase m a).read x = if x = a then Memory.unlisted a else m.read x := by
  induction m with
  | nil => by_cases h : x = a <;> simp [Memory.erase, h]
  | cons c m ih =>
    by_cases h : c.1 = a
    · by_cases hx : x = a
      · subst hx; simpa [Memory.erase, h] using ih
      · have : ¬ a = x := fun h' => hx h'.symm
        simp [Memory.erase, h, ih, hx, Memory.read, this]
    · by_cases hc : c.1 = x
      · have : ¬ x = a := fun h' => h (hc.trans h')
        simp [Memory.erase, Memory.read, hc, this]
      · simp [Memory.erase, h, Memory.read, hc, ih]

theorem Memory.read_insert (m : Memory) (a x : Nat) (b : Byte) :
    (Memory.insert m a b).read x = if x = a then b else m.read x := by
  induction m with
  | nil => simp only [Memory.insert, Memory.read, eq_comm]
  | cons c m ih =>
    simp only [Memory.insert]
    split
    · next h =>
      simp only [Memory.read, ih]
      by_cases hc : c.1 = x
      · have : ¬ x = a := by omega
        simp [hc, this]
      · simp [hc]
    · split
      · next h =>
        by_cases hx : x = a
        · simp [Memory.read, hx]
        · have h1 : ¬ a = x := fun h' => hx h'.symm
          have h2 : ¬ c.1 = x := by omega
          simp [Memory.read, hx, h1, h2]
      · by_cases hx : x = a
        · simp [Memory.read, hx]
        · have h1 : ¬ a = x := fun h' => hx h'.symm
          simp [Memory.read, hx, h1]

/-- A read after a write: the byte written at its address, and every other address as before. -/
theorem Memory.read_write (m : Memory) (a x : Nat) (b : Byte) :
    (m.write a b).read x = if x = a then b else m.read x := by
  unfold Memory.write
  split
  · next h => rw [Memory.read_erase, h]
  · exact Memory.read_insert m a x b

/-- A read after a run of writes: the byte written there, and every address outside the run as before. -/
theorem Memory.read_writeBytes (bs : List Byte) (m : Memory) (a x : Nat) :
    (m.writeBytes a bs).read x = if a ≤ x ∧ x < a + bs.length then bs.getD (x - a) 0#8 else m.read x := by
  induction bs generalizing m a with
  | nil => simp [Memory.writeBytes]
  | cons b bs ih =>
    simp only [Memory.writeBytes, ih, Memory.read_write, List.length_cons]
    by_cases h : x = a
    · subst h; simp
    · by_cases h2 : a + 1 ≤ x ∧ x < a + 1 + bs.length
      · have h3 : a ≤ x ∧ x < a + (bs.length + 1) := by omega
        obtain ⟨k, hk⟩ : ∃ k, x - a = k + 1 := ⟨x - a - 1, by omega⟩
        have h4 : x - (a + 1) = k := by omega
        simp [h2, h3, hk, h4]
      · have h3 : ¬ (a ≤ x ∧ x < a + (bs.length + 1)) := by omega
        rw [if_neg h2, if_neg h3, if_neg h]

@[simp] theorem Memory.readBytes_length (m : Memory) (a n : Nat) : (m.readBytes a n).length = n := by
  induction n generalizing a with
  | zero => rfl
  | succ n ih => simp [Memory.readBytes, ih]

/-- The `k`-th byte of a run of reads. -/
theorem Memory.readBytes_getElem (m : Memory) (a n k : Nat) (h : k < (m.readBytes a n).length) :
    (m.readBytes a n)[k] = m.read (a + k) := by
  induction n generalizing a k with
  | zero => simp at h
  | succ n ih =>
    cases k with
    | zero => rfl
    | succ k =>
      simp only [Memory.readBytes, List.getElem_cons_succ]
      rw [ih]; congr 1; omega

/-- A run of reads sees only the cells. -/
theorem Memory.readBytes_congr (m m' : Memory) (h : ∀ a, m'.read a = m.read a) (a n : Nat) :
    m'.readBytes a n = m.readBytes a n := by
  induction n generalizing a with
  | zero => rfl
  | succ n ih => simp [Memory.readBytes, h, ih]

/-! ### The canonical form -/

@[simp] theorem Memory.wf_nil : Memory.wf [] = true := rfl

theorem Memory.wf_cons (c : Host.Cell) (m : Memory) :
    Memory.wf (c :: m) = true ↔ c.2 ≠ Memory.unlisted c.1 ∧ (∀ d ∈ m, c.1 < d.1) ∧ Memory.wf m = true := by
  simp [Memory.wf, and_assoc]

theorem Memory.mem_erase (m : Memory) (a : Nat) (d : Host.Cell) (h : d ∈ Memory.erase m a) : d ∈ m := by
  induction m with
  | nil => exact h
  | cons c m ih =>
    simp only [Memory.erase] at h
    split at h
    · exact List.mem_cons_of_mem _ (ih h)
    · rcases List.mem_cons.1 h with rfl | h
      · exact List.mem_cons_self
      · exact List.mem_cons_of_mem _ (ih h)

theorem Memory.mem_insert (m : Memory) (a : Nat) (b : Byte) (d : Host.Cell) (h : d ∈ Memory.insert m a b) :
    d = (a, b) ∨ d ∈ m := by
  induction m with
  | nil => exact .inl (by simpa [Memory.insert] using h)
  | cons c m ih =>
    simp only [Memory.insert] at h
    split at h
    · rcases List.mem_cons.1 h with rfl | h
      · exact .inr List.mem_cons_self
      · exact (ih h).imp_right (List.mem_cons_of_mem _)
    · split at h
      · exact (List.mem_cons.1 h).imp_right (List.mem_cons_of_mem _)
      · exact List.mem_cons.1 h

theorem Memory.wf_erase (m : Memory) (a : Nat) (h : m.wf = true) : (Memory.erase m a).wf = true := by
  induction m with
  | nil => rfl
  | cons c m ih =>
    obtain ⟨h1, h2, h3⟩ := (Memory.wf_cons c m).1 h
    simp only [Memory.erase]
    split
    · exact ih h3
    · exact (Memory.wf_cons _ _).2 ⟨h1, fun d hd => h2 d (Memory.mem_erase m a d hd), ih h3⟩

theorem Memory.wf_insert (m : Memory) (a : Nat) (b : Byte) (hb : b ≠ Memory.unlisted a) (h : m.wf = true) :
    (Memory.insert m a b).wf = true := by
  induction m with
  | nil => exact (Memory.wf_cons _ _).2 ⟨hb, by simp, rfl⟩
  | cons c m ih =>
    obtain ⟨h1, h2, h3⟩ := (Memory.wf_cons c m).1 h
    simp only [Memory.insert]
    split
    · next hlt =>
      refine (Memory.wf_cons _ _).2 ⟨h1, fun d hd => ?_, ih h3⟩
      rcases Memory.mem_insert m a b d hd with rfl | hd
      · exact hlt
      · exact h2 d hd
    · split
      · next heq => exact (Memory.wf_cons _ _).2 ⟨hb, fun d hd => heq ▸ h2 d hd, h3⟩
      · next hne hlt =>
        refine (Memory.wf_cons _ _).2 ⟨hb, fun d hd => ?_, h⟩
        rcases List.mem_cons.1 hd with rfl | hd
        · omega
        · have := h2 d hd; omega

/-- A write keeps the canonical form. -/
theorem Memory.wf_write (m : Memory) (a : Nat) (b : Byte) (h : m.wf = true) : (m.write a b).wf = true := by
  unfold Memory.write
  split
  · exact Memory.wf_erase m a h
  · next hb => exact Memory.wf_insert m a b hb h

/-- A run of writes keeps the canonical form. -/
theorem Memory.wf_writeBytes (bs : List Byte) (m : Memory) (a : Nat) (h : m.wf = true) :
    (m.writeBytes a bs).wf = true := by
  induction bs generalizing m a with
  | nil => exact h
  | cons b bs ih => exact ih _ _ (Memory.wf_write m a b h)

theorem Memory.inRange_iff (m : Memory) : m.inRange = true ↔ ∀ c ∈ m, c.1 < 4096 := by
  simp [Memory.inRange]

/-- A write inside the address space lists no cell outside it. -/
theorem Memory.inRange_write (m : Memory) (a : Nat) (b : Byte) (ha : a < 4096) (h : m.inRange = true) :
    (m.write a b).inRange = true := by
  rw [Memory.inRange_iff] at h ⊢
  intro c hc
  unfold Memory.write at hc
  split at hc
  · exact h c (Memory.mem_erase m a c hc)
  · rcases Memory.mem_insert m a b c hc with rfl | hc
    · exact ha
    · exact h c hc

/-- A run of writes inside the address space lists no cell outside it. -/
theorem Memory.inRange_writeBytes (bs : List Byte) (m : Memory) (a : Nat) (ha : a + bs.length ≤ 4096)
    (h : m.inRange = true) : (m.writeBytes a bs).inRange = true := by
  induction bs generalizing m a with
  | nil => exact h
  | cons b bs ih =>
    simp only [List.length_cons] at ha
    exact ih _ _ (by omega) (Memory.inRange_write m a b (by omega) h)

end Sys2Proof.Machine
end

