-- ==== Sys2Proof/Laws/Draw.lean ====
section
/-! SUPPORT. What a draw does to the grid, cell by cell: a cell changes exactly when a set sprite bit lies on it, and the
collision is that some such cell was set before (44_display.md R172, R173 (c)). -/

namespace Sys2Proof.Machine

theorem Grid.cell_flip (d : Grid) (y y' : Fin 32) (x x' : Fin 64) :
    (d.flip y x).cell y' x' = if y' = y ∧ x' = x then !d.cell y x else d.cell y' x' := by
  simp only [Grid.cell, Grid.flip, Vector.getElem_set]
  by_cases hy : y' = y
  · subst hy
    by_cases hx : x' = x
    · subst hx; simp
    · have : x.val ≠ x'.val := fun h => hx (Fin.ext h.symm)
      simp [this, hx]
  · have : y.val ≠ y'.val := fun h => hy (Fin.ext h.symm)
    simp [this, hy]

@[simp] theorem Grid.cell_blank (y : Fin 32) (x : Fin 64) : Grid.blank.cell y x = false := by
  simp [Grid.cell, Grid.blank]

/-- Two grids with equal cells are equal. -/
theorem Grid.ext_cell (d d' : Grid) (h : ∀ y x, d.cell y x = d'.cell y x) : d = d' := by
  apply Vector.ext; intro y hy
  apply Vector.ext; intro x hx
  exact h ⟨y, hy⟩ ⟨x, hx⟩

/-- One set sprite bit inverts its cell and no other. -/
theorem drawCell_cell (y x : Nat) (d : Drawing) (py : Fin 32) (px : Fin 64) :
    (drawCell y x d).1.cell py px = if y % 32 = py.val ∧ x % 64 = px.val then !d.1.cell py px else d.1.cell py px := by
  simp only [drawCell, Grid.cell_flip, Fin.ext_iff]
  by_cases h : py.val = y % 32 ∧ px.val = x % 64
  · have hy : (⟨y % 32, Nat.mod_lt _ (by decide)⟩ : Fin 32) = py := Fin.ext h.1.symm
    have hx : (⟨x % 64, Nat.mod_lt _ (by decide)⟩ : Fin 64) = px := Fin.ext h.2.symm
    simp [h, hy, hx]
  · have h' : ¬ (y % 32 = py.val ∧ x % 64 = px.val) := fun h'' => h ⟨h''.1.symm, h''.2.symm⟩
    simp [h, h']

/-- A set sprite bit collides when its cell was set. -/
theorem drawCell_collision (y x : Nat) (d : Drawing) :
    (drawCell y x d).2 = true ↔
      d.2 = true ∨ ∃ (py : Fin 32) (px : Fin 64), y % 32 = py.val ∧ x % 64 = px.val ∧ d.1.cell py px = true := by
  simp only [drawCell, Bool.or_eq_true]
  constructor
  · rintro (h | h)
    · exact .inl h
    · exact .inr ⟨_, _, rfl, rfl, h⟩
  · rintro (h | ⟨py, px, hy, hx, h⟩)
    · exact .inl h
    · refine .inr ?_
      have hy' : (⟨y % 32, Nat.mod_lt _ (by decide)⟩ : Fin 32) = py := Fin.ext hy
      have hx' : (⟨x % 64, Nat.mod_lt _ (by decide)⟩ : Fin 64) = px := Fin.ext hx
      rw [hy', hx']; exact h

/-- The cells under the last `k` columns of one sprite row. -/
def columnsCover (b : Byte) (y x0 k : Nat) (py : Fin 32) (px : Fin 64) : Prop :=
  ∃ j, j < k ∧ b.getLsbD j = true ∧ y % 32 = py.val ∧ (x0 + (7 - j)) % 64 = px.val

theorem drawColumns_spec (b : Byte) (y x0 k : Nat) (hk : k ≤ 8) (d : Drawing) :
    (∀ py px, (drawColumns b y x0 k d).1.cell py px ≠ d.1.cell py px ↔ columnsCover b y x0 k py px) ∧
    ((drawColumns b y x0 k d).2 = true ↔
      d.2 = true ∨ ∃ py px, columnsCover b y x0 k py px ∧ d.1.cell py px = true) := by
  induction k generalizing d with
  | zero => simp [drawColumns, columnsCover]
  | succ k ih =>
    have hk' : k ≤ 8 := by omega
    obtain ⟨ih1, ih2⟩ := ih hk' (if b.getLsbD k then drawCell y (x0 + (7 - k)) d else d)
    have hsplit : ∀ py px, columnsCover b y x0 (k + 1) py px ↔
        columnsCover b y x0 k py px ∨
          (b.getLsbD k = true ∧ y % 32 = py.val ∧ (x0 + (7 - k)) % 64 = px.val) := by
      intro py px
      constructor
      · rintro ⟨j, hj, h⟩
        by_cases hjk : j = k
        · subst hjk; exact .inr h
        · exact .inl ⟨j, by omega, h⟩
      · rintro (⟨j, hj, h⟩ | h)
        · exact ⟨j, by omega, h⟩
        · exact ⟨k, by omega, h⟩
    have hdisj : ∀ py px, columnsCover b y x0 k py px →
        ¬ (y % 32 = py.val ∧ (x0 + (7 - k)) % 64 = px.val) := by
      rintro py px ⟨j, hj, _, _, hx⟩ ⟨_, hx'⟩
      omega
    simp only [drawColumns]
    by_cases hb : b.getLsbD k = true
    · simp only [hb, if_true] at ih1 ih2 ⊢
      refine ⟨fun py px => ?_, ?_⟩
      · rw [hsplit, ← ih1]
        by_cases hc : y % 32 = py.val ∧ (x0 + (7 - k)) % 64 = px.val
        · have hno := fun h => hdisj py px h hc
          have hsame := not_not.1 (mt (ih1 py px).1 hno)
          simp [hsame, drawCell_cell, hc, hb]
        · simp [drawCell_cell, hc]
      · rw [ih2, drawCell_collision]
        constructor
        · rintro ((h | ⟨py, px, hy, hx, h⟩) | ⟨py, px, hc, h⟩)
          · exact .inl h
          · exact .inr ⟨py, px, (hsplit py px).2 (.inr ⟨hb, hy, hx⟩), h⟩
          · refine .inr ⟨py, px, (hsplit py px).2 (.inl hc), ?_⟩
            simpa [drawCell_cell, hdisj py px hc] using h
        · rintro (h | ⟨py, px, hc, h⟩)
          · exact .inl (.inl h)
          · rcases (hsplit py px).1 hc with hc | ⟨_, hy, hx⟩
            · refine .inr ⟨py, px, hc, ?_⟩
              simpa [drawCell_cell, hdisj py px hc] using h
            · exact .inl (.inr ⟨py, px, hy, hx, h⟩)
    · simp only [hb] at ih1 ih2 ⊢
      have hs : ∀ py px, columnsCover b y x0 (k + 1) py px ↔ columnsCover b y x0 k py px := by
        intro py px; rw [hsplit]; simp [hb]
      simp only [hs]
      exact ⟨ih1, ih2⟩

/-- The cells under a sprite whose rows are `bs`, placed at (x0, y). -/
def rowsCover (x0 : Nat) (bs : List Byte) (y : Nat) (py : Fin 32) (px : Fin 64) : Prop :=
  ∃ r c, r < bs.length ∧ c < 8 ∧ (bs.getD r 0#8).getLsbD (7 - c) = true ∧
    (y + r) % 32 = py.val ∧ (x0 + c) % 64 = px.val

theorem rowsCover_cons (x0 : Nat) (b : Byte) (bs : List Byte) (y : Nat) (py : Fin 32) (px : Fin 64) :
    rowsCover x0 (b :: bs) y py px ↔ columnsCover b y x0 8 py px ∨ rowsCover x0 bs (y + 1) py px := by
  constructor
  · rintro ⟨r, c, hr, hc, hb, hy, hx⟩
    cases r with
    | zero => exact .inl ⟨7 - c, by omega, hb, hy, by rw [← hx]; congr 2; omega⟩
    | succ r =>
      exact .inr ⟨r, c, by simpa using hr, hc, by simpa using hb, by rw [← hy]; congr 1; omega, hx⟩
  · rintro (⟨j, hj, hb, hy, hx⟩ | ⟨r, c, hr, hc, hb, hy, hx⟩)
    · refine ⟨0, 7 - j, by simp, by omega, ?_, hy, hx⟩
      have : 7 - (7 - j) = j := by omega
      simpa [this] using hb
    · exact ⟨r + 1, c, by simpa using hr, hc, by simpa using hb, by rw [← hy]; congr 1; omega, hx⟩

/-- A whole sprite of at most 32 rows: a cell changes exactly when a set sprite bit lies on it, and the draw collides
exactly when some such cell was set before. -/
theorem drawRows_spec (x0 : Nat) (bs : List Byte) (y : Nat) (hl : bs.length ≤ 32) (d : Drawing) :
    (∀ py px, (drawRows x0 bs y d).1.cell py px ≠ d.1.cell py px ↔ rowsCover x0 bs y py px) ∧
    ((drawRows x0 bs y d).2 = true ↔
      d.2 = true ∨ ∃ py px, rowsCover x0 bs y py px ∧ d.1.cell py px = true) := by
  induction bs generalizing y d with
  | nil => simp [drawRows, rowsCover]
  | cons b bs ih =>
    simp only [List.length_cons] at hl
    obtain ⟨ih1, ih2⟩ := ih (y + 1) (by omega) (drawColumns b y x0 8 d)
    obtain ⟨c1, c2⟩ := drawColumns_spec b y x0 8 (by omega) d
    have hdisj : ∀ py px, columnsCover b y x0 8 py px → ¬ rowsCover x0 bs (y + 1) py px := by
      rintro py px ⟨j, _, _, hy, _⟩ ⟨r, c, hr, _, _, hy', _⟩
      omega
    have hkeep : ∀ py px, ¬ columnsCover b y x0 8 py px →
        (drawColumns b y x0 8 d).1.cell py px = d.1.cell py px := fun py px h => not_not.1 (mt (c1 py px).1 h)
    simp only [drawRows]
    refine ⟨fun py px => ?_, ?_⟩
    · rw [rowsCover_cons]
      by_cases hc : columnsCover b y x0 8 py px
      · have hsame := not_not.1 (mt (ih1 py px).1 (hdisj py px hc))
        rw [hsame]
        exact ⟨fun _ => .inl hc, fun _ => (c1 py px).2 hc⟩
      · rw [← hkeep py px hc, ih1]
        exact ⟨.inr, fun h => h.resolve_left hc⟩
    · rw [ih2, c2]
      constructor
      · rintro ((h | ⟨py, px, hc, h⟩) | ⟨py, px, hc, h⟩)
        · exact .inl h
        · exact .inr ⟨py, px, (rowsCover_cons ..).2 (.inl hc), h⟩
        · refine .inr ⟨py, px, (rowsCover_cons ..).2 (.inr hc), ?_⟩
          rw [← hkeep py px (fun h' => hdisj py px h' hc)]; exact h
      · rintro (h | ⟨py, px, hc, h⟩)
        · exact .inl (.inl h)
        · rcases (rowsCover_cons ..).1 hc with hc | hc
          · exact .inl (.inr ⟨py, px, hc, h⟩)
          · refine .inr ⟨py, px, hc, ?_⟩
            rw [hkeep py px (fun h' => hdisj py px h' hc)]; exact h

end Sys2Proof.Machine
end

