-- ==== Sys2Proof/Laws/State.lean ====
section
/-! SUPPORT. What each update of the state does to each field: one lemma per field per update, true by rfl, and what a
register read gives after a register write. -/

namespace Sys2Proof.Machine

/-! ### State.setV -/

@[simp] theorem State.setV_mem (s : State) (r : Reg) (b : Byte) : (s.setV r b).mem = s.mem := rfl
@[simp] theorem State.setV_i (s : State) (r : Reg) (b : Byte) : (s.setV r b).i = s.i := rfl
@[simp] theorem State.setV_pc (s : State) (r : Reg) (b : Byte) : (s.setV r b).pc = s.pc := rfl
@[simp] theorem State.setV_stack (s : State) (r : Reg) (b : Byte) : (s.setV r b).stack = s.stack := rfl
@[simp] theorem State.setV_sp (s : State) (r : Reg) (b : Byte) : (s.setV r b).sp = s.sp := rfl
@[simp] theorem State.setV_dt (s : State) (r : Reg) (b : Byte) : (s.setV r b).dt = s.dt := rfl
@[simp] theorem State.setV_st (s : State) (r : Reg) (b : Byte) : (s.setV r b).st = s.st := rfl
@[simp] theorem State.setV_display (s : State) (r : Reg) (b : Byte) : (s.setV r b).display = s.display := rfl
@[simp] theorem State.setV_dirty (s : State) (r : Reg) (b : Byte) : (s.setV r b).dirty = s.dirty := rfl
@[simp] theorem State.setV_keys (s : State) (r : Reg) (b : Byte) : (s.setV r b).keys = s.keys := rfl
@[simp] theorem State.setV_mode (s : State) (r : Reg) (b : Byte) : (s.setV r b).mode = s.mode := rfl
@[simp] theorem State.setV_result (s : State) (r : Reg) (b : Byte) : (s.setV r b).result = s.result := rfl
@[simp] theorem State.setV_rands (s : State) (r : Reg) (b : Byte) : (s.setV r b).rands = s.rands := rfl
@[simp] theorem State.setV_draws (s : State) (r : Reg) (b : Byte) : (s.setV r b).draws = s.draws := rfl

/-! ### State.setVFlag -/

@[simp] theorem State.setVFlag_mem (s : State) (x : Reg) (b f : Byte) : (s.setVFlag x b f).mem = s.mem := rfl
@[simp] theorem State.setVFlag_i (s : State) (x : Reg) (b f : Byte) : (s.setVFlag x b f).i = s.i := rfl
@[simp] theorem State.setVFlag_pc (s : State) (x : Reg) (b f : Byte) : (s.setVFlag x b f).pc = s.pc := rfl
@[simp] theorem State.setVFlag_stack (s : State) (x : Reg) (b f : Byte) : (s.setVFlag x b f).stack = s.stack := rfl
@[simp] theorem State.setVFlag_sp (s : State) (x : Reg) (b f : Byte) : (s.setVFlag x b f).sp = s.sp := rfl
@[simp] theorem State.setVFlag_dt (s : State) (x : Reg) (b f : Byte) : (s.setVFlag x b f).dt = s.dt := rfl
@[simp] theorem State.setVFlag_st (s : State) (x : Reg) (b f : Byte) : (s.setVFlag x b f).st = s.st := rfl
@[simp] theorem State.setVFlag_display (s : State) (x : Reg) (b f : Byte) : (s.setVFlag x b f).display = s.display := rfl
@[simp] theorem State.setVFlag_dirty (s : State) (x : Reg) (b f : Byte) : (s.setVFlag x b f).dirty = s.dirty := rfl
@[simp] theorem State.setVFlag_keys (s : State) (x : Reg) (b f : Byte) : (s.setVFlag x b f).keys = s.keys := rfl
@[simp] theorem State.setVFlag_mode (s : State) (x : Reg) (b f : Byte) : (s.setVFlag x b f).mode = s.mode := rfl
@[simp] theorem State.setVFlag_result (s : State) (x : Reg) (b f : Byte) : (s.setVFlag x b f).result = s.result := rfl
@[simp] theorem State.setVFlag_rands (s : State) (x : Reg) (b f : Byte) : (s.setVFlag x b f).rands = s.rands := rfl
@[simp] theorem State.setVFlag_draws (s : State) (x : Reg) (b f : Byte) : (s.setVFlag x b f).draws = s.draws := rfl

/-! ### State.setI -/

@[simp] theorem State.setI_mem (s : State) (w : Word) : (s.setI w).mem = s.mem := rfl
@[simp] theorem State.setI_v (s : State) (w : Word) : (s.setI w).v = s.v := rfl
@[simp] theorem State.setI_i (s : State) (w : Word) : (s.setI w).i = w := rfl
@[simp] theorem State.setI_pc (s : State) (w : Word) : (s.setI w).pc = s.pc := rfl
@[simp] theorem State.setI_stack (s : State) (w : Word) : (s.setI w).stack = s.stack := rfl
@[simp] theorem State.setI_sp (s : State) (w : Word) : (s.setI w).sp = s.sp := rfl
@[simp] theorem State.setI_dt (s : State) (w : Word) : (s.setI w).dt = s.dt := rfl
@[simp] theorem State.setI_st (s : State) (w : Word) : (s.setI w).st = s.st := rfl
@[simp] theorem State.setI_display (s : State) (w : Word) : (s.setI w).display = s.display := rfl
@[simp] theorem State.setI_dirty (s : State) (w : Word) : (s.setI w).dirty = s.dirty := rfl
@[simp] theorem State.setI_keys (s : State) (w : Word) : (s.setI w).keys = s.keys := rfl
@[simp] theorem State.setI_mode (s : State) (w : Word) : (s.setI w).mode = s.mode := rfl
@[simp] theorem State.setI_result (s : State) (w : Word) : (s.setI w).result = s.result := rfl
@[simp] theorem State.setI_rands (s : State) (w : Word) : (s.setI w).rands = s.rands := rfl
@[simp] theorem State.setI_draws (s : State) (w : Word) : (s.setI w).draws = s.draws := rfl

/-! ### State.setDt -/

@[simp] theorem State.setDt_mem (s : State) (b : Byte) : (s.setDt b).mem = s.mem := rfl
@[simp] theorem State.setDt_v (s : State) (b : Byte) : (s.setDt b).v = s.v := rfl
@[simp] theorem State.setDt_i (s : State) (b : Byte) : (s.setDt b).i = s.i := rfl
@[simp] theorem State.setDt_pc (s : State) (b : Byte) : (s.setDt b).pc = s.pc := rfl
@[simp] theorem State.setDt_stack (s : State) (b : Byte) : (s.setDt b).stack = s.stack := rfl
@[simp] theorem State.setDt_sp (s : State) (b : Byte) : (s.setDt b).sp = s.sp := rfl
@[simp] theorem State.setDt_dt (s : State) (b : Byte) : (s.setDt b).dt = b := rfl
@[simp] theorem State.setDt_st (s : State) (b : Byte) : (s.setDt b).st = s.st := rfl
@[simp] theorem State.setDt_display (s : State) (b : Byte) : (s.setDt b).display = s.display := rfl
@[simp] theorem State.setDt_dirty (s : State) (b : Byte) : (s.setDt b).dirty = s.dirty := rfl
@[simp] theorem State.setDt_keys (s : State) (b : Byte) : (s.setDt b).keys = s.keys := rfl
@[simp] theorem State.setDt_mode (s : State) (b : Byte) : (s.setDt b).mode = s.mode := rfl
@[simp] theorem State.setDt_result (s : State) (b : Byte) : (s.setDt b).result = s.result := rfl
@[simp] theorem State.setDt_rands (s : State) (b : Byte) : (s.setDt b).rands = s.rands := rfl
@[simp] theorem State.setDt_draws (s : State) (b : Byte) : (s.setDt b).draws = s.draws := rfl

/-! ### State.setSt -/

@[simp] theorem State.setSt_mem (s : State) (b : Byte) : (s.setSt b).mem = s.mem := rfl
@[simp] theorem State.setSt_v (s : State) (b : Byte) : (s.setSt b).v = s.v := rfl
@[simp] theorem State.setSt_i (s : State) (b : Byte) : (s.setSt b).i = s.i := rfl
@[simp] theorem State.setSt_pc (s : State) (b : Byte) : (s.setSt b).pc = s.pc := rfl
@[simp] theorem State.setSt_stack (s : State) (b : Byte) : (s.setSt b).stack = s.stack := rfl
@[simp] theorem State.setSt_sp (s : State) (b : Byte) : (s.setSt b).sp = s.sp := rfl
@[simp] theorem State.setSt_dt (s : State) (b : Byte) : (s.setSt b).dt = s.dt := rfl
@[simp] theorem State.setSt_st (s : State) (b : Byte) : (s.setSt b).st = b := rfl
@[simp] theorem State.setSt_display (s : State) (b : Byte) : (s.setSt b).display = s.display := rfl
@[simp] theorem State.setSt_dirty (s : State) (b : Byte) : (s.setSt b).dirty = s.dirty := rfl
@[simp] theorem State.setSt_keys (s : State) (b : Byte) : (s.setSt b).keys = s.keys := rfl
@[simp] theorem State.setSt_mode (s : State) (b : Byte) : (s.setSt b).mode = s.mode := rfl
@[simp] theorem State.setSt_result (s : State) (b : Byte) : (s.setSt b).result = s.result := rfl
@[simp] theorem State.setSt_rands (s : State) (b : Byte) : (s.setSt b).rands = s.rands := rfl
@[simp] theorem State.setSt_draws (s : State) (b : Byte) : (s.setSt b).draws = s.draws := rfl

/-! ### State.setMode -/

@[simp] theorem State.setMode_mem (s : State) (m : Mode) : (s.setMode m).mem = s.mem := rfl
@[simp] theorem State.setMode_v (s : State) (m : Mode) : (s.setMode m).v = s.v := rfl
@[simp] theorem State.setMode_i (s : State) (m : Mode) : (s.setMode m).i = s.i := rfl
@[simp] theorem State.setMode_pc (s : State) (m : Mode) : (s.setMode m).pc = s.pc := rfl
@[simp] theorem State.setMode_stack (s : State) (m : Mode) : (s.setMode m).stack = s.stack := rfl
@[simp] theorem State.setMode_sp (s : State) (m : Mode) : (s.setMode m).sp = s.sp := rfl
@[simp] theorem State.setMode_dt (s : State) (m : Mode) : (s.setMode m).dt = s.dt := rfl
@[simp] theorem State.setMode_st (s : State) (m : Mode) : (s.setMode m).st = s.st := rfl
@[simp] theorem State.setMode_display (s : State) (m : Mode) : (s.setMode m).display = s.display := rfl
@[simp] theorem State.setMode_dirty (s : State) (m : Mode) : (s.setMode m).dirty = s.dirty := rfl
@[simp] theorem State.setMode_keys (s : State) (m : Mode) : (s.setMode m).keys = s.keys := rfl
@[simp] theorem State.setMode_mode (s : State) (m : Mode) : (s.setMode m).mode = m := rfl
@[simp] theorem State.setMode_result (s : State) (m : Mode) : (s.setMode m).result = s.result := rfl
@[simp] theorem State.setMode_rands (s : State) (m : Mode) : (s.setMode m).rands = s.rands := rfl
@[simp] theorem State.setMode_draws (s : State) (m : Mode) : (s.setMode m).draws = s.draws := rfl

/-! ### State.setDisplay -/

@[simp] theorem State.setDisplay_mem (s : State) (d : Grid) : (s.setDisplay d).mem = s.mem := rfl
@[simp] theorem State.setDisplay_v (s : State) (d : Grid) : (s.setDisplay d).v = s.v := rfl
@[simp] theorem State.setDisplay_i (s : State) (d : Grid) : (s.setDisplay d).i = s.i := rfl
@[simp] theorem State.setDisplay_pc (s : State) (d : Grid) : (s.setDisplay d).pc = s.pc := rfl
@[simp] theorem State.setDisplay_stack (s : State) (d : Grid) : (s.setDisplay d).stack = s.stack := rfl
@[simp] theorem State.setDisplay_sp (s : State) (d : Grid) : (s.setDisplay d).sp = s.sp := rfl
@[simp] theorem State.setDisplay_dt (s : State) (d : Grid) : (s.setDisplay d).dt = s.dt := rfl
@[simp] theorem State.setDisplay_st (s : State) (d : Grid) : (s.setDisplay d).st = s.st := rfl
@[simp] theorem State.setDisplay_display (s : State) (d : Grid) : (s.setDisplay d).display = d := rfl
@[simp] theorem State.setDisplay_dirty (s : State) (d : Grid) : (s.setDisplay d).dirty = true := rfl
@[simp] theorem State.setDisplay_keys (s : State) (d : Grid) : (s.setDisplay d).keys = s.keys := rfl
@[simp] theorem State.setDisplay_mode (s : State) (d : Grid) : (s.setDisplay d).mode = s.mode := rfl
@[simp] theorem State.setDisplay_result (s : State) (d : Grid) : (s.setDisplay d).result = s.result := rfl
@[simp] theorem State.setDisplay_rands (s : State) (d : Grid) : (s.setDisplay d).rands = s.rands := rfl
@[simp] theorem State.setDisplay_draws (s : State) (d : Grid) : (s.setDisplay d).draws = s.draws := rfl

/-! ### State.setMem -/

@[simp] theorem State.setMem_mem (s : State) (m : Memory) : (s.setMem m).mem = m := rfl
@[simp] theorem State.setMem_v (s : State) (m : Memory) : (s.setMem m).v = s.v := rfl
@[simp] theorem State.setMem_i (s : State) (m : Memory) : (s.setMem m).i = s.i := rfl
@[simp] theorem State.setMem_pc (s : State) (m : Memory) : (s.setMem m).pc = s.pc := rfl
@[simp] theorem State.setMem_stack (s : State) (m : Memory) : (s.setMem m).stack = s.stack := rfl
@[simp] theorem State.setMem_sp (s : State) (m : Memory) : (s.setMem m).sp = s.sp := rfl
@[simp] theorem State.setMem_dt (s : State) (m : Memory) : (s.setMem m).dt = s.dt := rfl
@[simp] theorem State.setMem_st (s : State) (m : Memory) : (s.setMem m).st = s.st := rfl
@[simp] theorem State.setMem_display (s : State) (m : Memory) : (s.setMem m).display = s.display := rfl
@[simp] theorem State.setMem_dirty (s : State) (m : Memory) : (s.setMem m).dirty = s.dirty := rfl
@[simp] theorem State.setMem_keys (s : State) (m : Memory) : (s.setMem m).keys = s.keys := rfl
@[simp] theorem State.setMem_mode (s : State) (m : Memory) : (s.setMem m).mode = s.mode := rfl
@[simp] theorem State.setMem_result (s : State) (m : Memory) : (s.setMem m).result = s.result := rfl
@[simp] theorem State.setMem_rands (s : State) (m : Memory) : (s.setMem m).rands = s.rands := rfl
@[simp] theorem State.setMem_draws (s : State) (m : Memory) : (s.setMem m).draws = s.draws := rfl

/-! ### State.consumeRand -/

@[simp] theorem State.consumeRand_mem (s : State) : (s.consumeRand).mem = s.mem := rfl
@[simp] theorem State.consumeRand_v (s : State) : (s.consumeRand).v = s.v := rfl
@[simp] theorem State.consumeRand_i (s : State) : (s.consumeRand).i = s.i := rfl
@[simp] theorem State.consumeRand_pc (s : State) : (s.consumeRand).pc = s.pc := rfl
@[simp] theorem State.consumeRand_stack (s : State) : (s.consumeRand).stack = s.stack := rfl
@[simp] theorem State.consumeRand_sp (s : State) : (s.consumeRand).sp = s.sp := rfl
@[simp] theorem State.consumeRand_dt (s : State) : (s.consumeRand).dt = s.dt := rfl
@[simp] theorem State.consumeRand_st (s : State) : (s.consumeRand).st = s.st := rfl
@[simp] theorem State.consumeRand_display (s : State) : (s.consumeRand).display = s.display := rfl
@[simp] theorem State.consumeRand_dirty (s : State) : (s.consumeRand).dirty = s.dirty := rfl
@[simp] theorem State.consumeRand_keys (s : State) : (s.consumeRand).keys = s.keys := rfl
@[simp] theorem State.consumeRand_mode (s : State) : (s.consumeRand).mode = s.mode := rfl
@[simp] theorem State.consumeRand_result (s : State) : (s.consumeRand).result = s.result := rfl
@[simp] theorem State.consumeRand_rands (s : State) : (s.consumeRand).rands = s.rands.tail := rfl
@[simp] theorem State.consumeRand_draws (s : State) : (s.consumeRand).draws = s.draws + 1 := rfl

/-! ### State.tick -/

@[simp] theorem State.tick_mem (s : State) : (s.tick).mem = s.mem := rfl
@[simp] theorem State.tick_v (s : State) : (s.tick).v = s.v := rfl
@[simp] theorem State.tick_i (s : State) : (s.tick).i = s.i := rfl
@[simp] theorem State.tick_pc (s : State) : (s.tick).pc = s.pc := rfl
@[simp] theorem State.tick_stack (s : State) : (s.tick).stack = s.stack := rfl
@[simp] theorem State.tick_sp (s : State) : (s.tick).sp = s.sp := rfl
@[simp] theorem State.tick_dt (s : State) : (s.tick).dt = tickByte s.dt := rfl
@[simp] theorem State.tick_st (s : State) : (s.tick).st = tickByte s.st := rfl
@[simp] theorem State.tick_display (s : State) : (s.tick).display = s.display := rfl
@[simp] theorem State.tick_dirty (s : State) : (s.tick).dirty = s.dirty := rfl
@[simp] theorem State.tick_keys (s : State) : (s.tick).keys = s.keys := rfl
@[simp] theorem State.tick_mode (s : State) : (s.tick).mode = s.mode := rfl
@[simp] theorem State.tick_result (s : State) : (s.tick).result = s.result := rfl
@[simp] theorem State.tick_rands (s : State) : (s.tick).rands = s.rands := rfl
@[simp] theorem State.tick_draws (s : State) : (s.tick).draws = s.draws := rfl

/-! ### State.complete -/

@[simp] theorem State.complete_mem (s : State) (p : Word) (r : StepResult) : (s.complete p r).mem = s.mem := rfl
@[simp] theorem State.complete_v (s : State) (p : Word) (r : StepResult) : (s.complete p r).v = s.v := rfl
@[simp] theorem State.complete_i (s : State) (p : Word) (r : StepResult) : (s.complete p r).i = s.i := rfl
@[simp] theorem State.complete_pc (s : State) (p : Word) (r : StepResult) : (s.complete p r).pc = p := rfl
@[simp] theorem State.complete_stack (s : State) (p : Word) (r : StepResult) : (s.complete p r).stack = s.stack := rfl
@[simp] theorem State.complete_sp (s : State) (p : Word) (r : StepResult) : (s.complete p r).sp = s.sp := rfl
@[simp] theorem State.complete_dt (s : State) (p : Word) (r : StepResult) : (s.complete p r).dt = tickByte s.dt := rfl
@[simp] theorem State.complete_st (s : State) (p : Word) (r : StepResult) : (s.complete p r).st = tickByte s.st := rfl
@[simp] theorem State.complete_display (s : State) (p : Word) (r : StepResult) : (s.complete p r).display = s.display := rfl
@[simp] theorem State.complete_dirty (s : State) (p : Word) (r : StepResult) : (s.complete p r).dirty = s.dirty := rfl
@[simp] theorem State.complete_keys (s : State) (p : Word) (r : StepResult) : (s.complete p r).keys = s.keys := rfl
@[simp] theorem State.complete_mode (s : State) (p : Word) (r : StepResult) : (s.complete p r).mode = s.mode := rfl
@[simp] theorem State.complete_result (s : State) (p : Word) (r : StepResult) : (s.complete p r).result = r := rfl
@[simp] theorem State.complete_rands (s : State) (p : Word) (r : StepResult) : (s.complete p r).rands = s.rands := rfl
@[simp] theorem State.complete_draws (s : State) (p : Word) (r : StepResult) : (s.complete p r).draws = s.draws := rfl

/-! ### Reading registers -/

theorem State.getV_setV (s : State) (x r : Reg) (b : Byte) :
    (s.setV x b).getV r = if r = x then b else s.getV r := by
  simp only [State.getV, State.setV, Vector.getElem_set, Fin.val_inj, eq_comm]

@[simp] theorem State.getV_setV_self (s : State) (x : Reg) (b : Byte) : (s.setV x b).getV x = b := by
  simp [State.getV_setV]

theorem State.getV_setVFlag (s : State) (x r : Reg) (b f : Byte) :
    (s.setVFlag x b f).getV r = if r = VF then f else if r = x then b else s.getV r := by
  simp only [State.setVFlag, State.getV_setV]

/-- A register read sees only the register file. -/
theorem State.getV_congr (s t : State) (h : t.v = s.v) (r : Reg) : t.getV r = s.getV r := by
  simp only [State.getV, h]

@[simp] theorem State.getV_setI (s : State) (w : Word) (r : Reg) : (s.setI w).getV r = s.getV r := rfl
@[simp] theorem State.getV_setDt (s : State) (b : Byte) (r : Reg) : (s.setDt b).getV r = s.getV r := rfl
@[simp] theorem State.getV_setSt (s : State) (b : Byte) (r : Reg) : (s.setSt b).getV r = s.getV r := rfl
@[simp] theorem State.getV_setMode (s : State) (m : Mode) (r : Reg) : (s.setMode m).getV r = s.getV r := rfl
@[simp] theorem State.getV_setDisplay (s : State) (d : Grid) (r : Reg) : (s.setDisplay d).getV r = s.getV r := rfl
@[simp] theorem State.getV_setMem (s : State) (m : Memory) (r : Reg) : (s.setMem m).getV r = s.getV r := rfl
@[simp] theorem State.getV_consumeRand (s : State) (r : Reg) : s.consumeRand.getV r = s.getV r := rfl
@[simp] theorem State.getV_complete (s : State) (p : Word) (q : StepResult) (r : Reg) :
    (s.complete p q).getV r = s.getV r := rfl

/-- The memory after reset is in its canonical form. -/
theorem State.reset_mem_wf : State.reset.mem.wf = true := rfl

end Sys2Proof.Machine
end

