-- ==== Sys2Proof/Laws/Ops.lean ====
section
/-! SUPPORT. One lemma per shared operation that says everything it can do; cite these and do not unfold the operation. -/

namespace Sys2Proof.Machine

/-! ### Memory ranges -/

theorem rangeFault_eq_none (base n : Nat) : rangeFault base n = none ↔ n = 0 ∨ base + n ≤ 4096 := by
  unfold rangeFault Config.memSize; split <;> simp_all

/-- A range check that fails gives MemoryFault at the first address above the end of memory. -/
theorem rangeFault_eq_some (base n : Nat) (f : Fault) :
    rangeFault base n = some f ↔
      n ≠ 0 ∧ 4096 < base + n ∧ f = .memoryFault (max base 4096) := by
  unfold rangeFault faultAddr Config.memSize
  split
  · next h => simp; omega
  · next h => simp only [not_or, not_le] at h; simp [h, eq_comm]

/-! ### Call stack -/

/-- A push either adds the address on top or overflows. -/
theorem State.push_eq (s : State) (a : Word) :
    (∃ h : s.sp.val < 16, s.push a =
      .ok { s with stack := s.stack.set s.sp.val a h, sp := ⟨s.sp.val + 1, by omega⟩ }) ∨
    (s.sp.val = 16 ∧ s.push a = .error .stackOverflow) := by
  unfold State.push
  split
  · next h => exact .inl ⟨h, rfl⟩
  · next h => exact .inr ⟨by omega, rfl⟩

/-- A pop either gives the top entry, which stays in place, or underflows. -/
theorem State.pop_eq (s : State) :
    (∃ _ : s.sp.val ≠ 0, s.pop =
      .ok (s.stack[s.sp.val - 1]'(by omega), { s with sp := ⟨s.sp.val - 1, by omega⟩ })) ∨
    (s.sp.val = 0 ∧ s.pop = .error .stackUnderflow) := by
  unfold State.pop
  split
  · next h => exact .inr ⟨h, rfl⟩
  · next h => exact .inl ⟨h, rfl⟩

/-! ### Keys -/

theorem State.anyPressed_eq_none (s : State) : s.anyPressed = none ↔ ∀ k : Reg, s.isPressed k = false := by
  simp [State.anyPressed, List.find?_eq_none]

/-- A pressed key that is reported is pressed, and no lower one is. -/
theorem State.anyPressed_eq_some (s : State) (k : Reg) :
    s.anyPressed = some k ↔ s.isPressed k = true ∧ ∀ j : Reg, j < k → s.isPressed j = false := by
  simp only [State.anyPressed]
  rw [List.find?_eq_some_iff_getElem]
  constructor
  · rintro ⟨hk, i, hi, rfl, hlt⟩
    refine ⟨hk, fun j hj => ?_⟩
    have := hlt j.val (by simpa [Fin.lt_def] using hj)
    simpa using this
  · rintro ⟨hk, hlt⟩
    refine ⟨hk, k.val, by simp, by simp, fun j hj => ?_⟩
    have := hlt ⟨j, by omega⟩ (by simpa [Fin.lt_def] using hj)
    simpa using this

/-! ### Registers -/

@[simp] theorem State.regsUpTo_length (s : State) (x : Reg) : (s.regsUpTo x).length = x.val + 1 := by
  simp [State.regsUpTo]

theorem State.regsUpTo_getElem (s : State) (x : Reg) (k : Nat) (h : k < (s.regsUpTo x).length) :
    (s.regsUpTo x)[k] = s.v[k]'(by simp at h; omega) := by
  simp [State.regsUpTo]

/-- What a register holds after a run of register writes. -/
theorem setRegs_getElem (bs : List Byte) (v : Vector Byte 16) (k r : Nat) (hr : r < 16) :
    (setRegs v k bs)[r] = if k ≤ r ∧ r < k + bs.length then bs.getD (r - k) 0#8 else v[r] := by
  induction bs generalizing v k with
  | nil => simp [setRegs]
  | cons b bs ih =>
    simp only [setRegs, ih, List.length_cons]
    by_cases h : r = k
    · subst h; simp
    · by_cases h2 : k + 1 ≤ r ∧ r < k + 1 + bs.length
      · have h3 : k ≤ r ∧ r < k + (bs.length + 1) := by omega
        obtain ⟨j, hj⟩ : ∃ j, r - k = j + 1 := ⟨r - k - 1, by omega⟩
        have h4 : r - (k + 1) = j := by omega
        simp [h2, h3, hj, h4]
      · have h3 : ¬ (k ≤ r ∧ r < k + (bs.length + 1)) := by omega
        have h5 : k ≠ r := fun h' => h h'.symm
        rw [if_neg h2, if_neg h3, Vector.getElem_setIfInBounds_ne hr h5]

/-! ### Timers -/

theorem tickByte_toNat (t : Byte) : (tickByte t).toNat = t.toNat - 1 := by
  unfold tickByte
  split
  · next h => subst h; rfl
  · next h =>
    have : t.toNat ≠ 0 := fun h' => h (BitVec.eq_of_toNat_eq (by simpa using h'))
    have := t.isLt
    rw [BitVec.toNat_sub]; simp; omega

/-! ### Stores at I -/

/-- A store at I either writes all of its bytes and completes, or faults with nothing written. -/
theorem storeAtI_eq (bs : List Byte) (s : State) (hb : bs ≠ []) :
    (s.i.toNat + bs.length ≤ 4096 ∧
      storeAtI bs s = .next ((s.setMem (s.mem.writeBytes s.i.toNat bs)).complete (s.pc + 2#16) .ok)) ∨
    (4096 < s.i.toNat + bs.length ∧
      storeAtI bs s = .fault (.memoryFault (max s.i.toNat 4096))) := by
  have hl : bs.length ≠ 0 := by simpa using hb
  unfold storeAtI
  cases h : rangeFault s.i.toNat bs.length with
  | none =>
    have := (rangeFault_eq_none _ _).1 h
    exact .inl ⟨by omega, rfl⟩
  | some f =>
    obtain ⟨_, h2, rfl⟩ := (rangeFault_eq_some _ _ _).1 h
    exact .inr ⟨h2, rfl⟩

/-! ### Operands and flags -/

@[simp] theorem zextAddr_toNat (nnn : BitVec 12) : (zextAddr nnn).toNat = nnn.toNat := by
  simp [zextAddr]; omega

@[simp] theorem zextByte_toNat (b : Byte) : (zextByte b).toNat = b.toNat := by
  simp [zextByte]; omega

@[simp] theorem lowNibble_val (b : Byte) : (lowNibble b).val = b.toNat % 16 := by
  simp [lowNibble]

@[simp] theorem glyphAddr_toNat (b : Byte) : (glyphAddr b).toNat = 5 * (b.toNat % 16) := by
  simp only [glyphAddr, Config.glyphBytes, lowNibble_val, BitVec.toNat_ofNat]; omega

@[simp] theorem flagByte_toNat (b : Bool) : (flagByte b).toNat = if b then 1 else 0 := by
  cases b <;> rfl

theorem carry_toNat (a b : Byte) : (carry a b).toNat = if a.toNat + b.toNat > 255 then 1 else 0 := by
  simp [carry]

theorem notBorrow_toNat (a b : Byte) : (notBorrow a b).toNat = if b.toNat ≤ a.toNat then 1 else 0 := by
  simp [notBorrow]

theorem bcdDigits_length (b : Byte) : (bcdDigits b).length = 3 := rfl

end Sys2Proof.Machine
end

