-- ==== Sys2Proof/Laws/Exec.lean ====
section
/-! SUPPORT. Everything an instruction that completes can do: one constructor for each shape of effect, and the lemma
that exec answers nothing else. Take a next state apart with it instead of unfolding the meanings. -/

namespace Sys2Proof.Machine

/-- The next states that exec can answer from `s`, by shape of effect. -/
inductive ExecNext (s : State) : Instr → State → Prop
  | cls : ExecNext s .cls ((s.setDisplay Grid.blank).complete (s.pc + 2#16) .ok)
  | ret (h : s.sp.val ≠ 0) :
    ExecNext s .ret (({ s with sp := ⟨s.sp.val - 1, by omega⟩ } : State).complete (s.stack[s.sp.val - 1]'(by omega)) .ok)
  | sys (nnn : BitVec 12) : ExecNext s (.sys nnn) (s.complete (s.pc + 2#16) .unknownOpcode)
  | jp (nnn : BitVec 12) : ExecNext s (.jp nnn) (s.complete (zextAddr nnn) .ok)
  | call (nnn : BitVec 12) (h : s.sp.val < 16) :
    ExecNext s (.call nnn)
      (({ s with stack := s.stack.set s.sp.val (s.pc + 2#16) h, sp := ⟨s.sp.val + 1, by omega⟩ } : State).complete
        (zextAddr nnn) .ok)
  | jpV0 (nnn : BitVec 12) : ExecNext s (.jpV0 nnn) (s.complete (zextAddr nnn + zextByte (s.getV V0)) .ok)
  | seImm (x : Reg) (nn : Byte) :
    ExecNext s (.seImm x nn) (s.complete (if s.getV x = nn then s.pc + 4#16 else s.pc + 2#16) .ok)
  | sneImm (x : Reg) (nn : Byte) :
    ExecNext s (.sneImm x nn) (s.complete (if s.getV x ≠ nn then s.pc + 4#16 else s.pc + 2#16) .ok)
  | seReg (x y : Reg) :
    ExecNext s (.seReg x y) (s.complete (if s.getV x = s.getV y then s.pc + 4#16 else s.pc + 2#16) .ok)
  | sneReg (x y : Reg) :
    ExecNext s (.sneReg x y) (s.complete (if s.getV x ≠ s.getV y then s.pc + 4#16 else s.pc + 2#16) .ok)
  | skp (x : Reg) :
    ExecNext s (.skp x)
      (s.complete (if s.isPressed (lowNibble (s.getV x)) = true then s.pc + 4#16 else s.pc + 2#16) .ok)
  | sknp (x : Reg) :
    ExecNext s (.sknp x)
      (s.complete (if s.isPressed (lowNibble (s.getV x)) = false then s.pc + 4#16 else s.pc + 2#16) .ok)
  | setV (i : Instr) (x : Reg) (b : Byte)
    (h : (∃ nn, i = .ldImm x nn ∧ b = nn) ∨ (∃ nn, i = .addImm x nn ∧ b = s.getV x + nn) ∨
      (∃ y, i = .ldReg x y ∧ b = s.getV y) ∨ (∃ y, i = .orReg x y ∧ b = s.getV x ||| s.getV y) ∨
      (∃ y, i = .andReg x y ∧ b = s.getV x &&& s.getV y) ∨ (∃ y, i = .xorReg x y ∧ b = s.getV x ^^^ s.getV y) ∨
      (i = .ldVxDt x ∧ b = s.dt)) :
    ExecNext s i ((s.setV x b).complete (s.pc + 2#16) .ok)
  | setVFlag (i : Instr) (x : Reg) (b f : Byte)
    (h : (∃ y, i = .addReg x y ∧ b = s.getV x + s.getV y ∧ f = carry (s.getV x) (s.getV y)) ∨
      (∃ y, i = .subReg x y ∧ b = s.getV x - s.getV y ∧ f = notBorrow (s.getV x) (s.getV y)) ∨
      (∃ y, i = .subnReg x y ∧ b = s.getV y - s.getV x ∧ f = notBorrow (s.getV y) (s.getV x)) ∨
      (i = .shr x ∧ b = s.getV x >>> 1 ∧ f = shiftedOutRight (s.getV x)) ∨
      (i = .shl x ∧ b = s.getV x <<< 1 ∧ f = shiftedOutLeft (s.getV x))) :
    ExecNext s i ((s.setVFlag x b f).complete (s.pc + 2#16) .ok)
  | rnd (x : Reg) (nn : Byte) :
    ExecNext s (.rnd x nn) ((s.consumeRand.setV x (s.nextRand &&& nn)).complete (s.pc + 2#16) .ok)
  | setI (i : Instr) (w : Word)
    (h : (∃ nnn, i = .ldI nnn ∧ w = zextAddr nnn) ∨ (∃ x, i = .addI x ∧ w = s.i + zextByte (s.getV x)) ∨
      (∃ x, i = .ldF x ∧ w = glyphAddr (s.getV x))) :
    ExecNext s i ((s.setI w).complete (s.pc + 2#16) .ok)
  | ldDtVx (x : Reg) : ExecNext s (.ldDtVx x) ((s.setDt (s.getV x)).complete (s.pc + 2#16) .ok)
  | ldStVx (x : Reg) : ExecNext s (.ldStVx x) ((s.setSt (s.getV x)).complete (s.pc + 2#16) .ok)
  | store (i : Instr) (bs : List Byte)
    (h : (∃ x, i = .ldB x ∧ bs = bcdDigits (s.getV x)) ∨ (∃ x, i = .storeRegs x ∧ bs = s.regsUpTo x))
    (hr : s.i.toNat + bs.length ≤ 4096) :
    ExecNext s i ((s.setMem (s.mem.writeBytes s.i.toNat bs)).complete (s.pc + 2#16) .ok)
  | loadRegs (x : Reg) (h : s.i.toNat + x.val < 4096) :
    ExecNext s (.loadRegs x)
      (({ s with v := setRegs s.v 0 (s.mem.readBytes s.i.toNat (x.val + 1)) } : State).complete (s.pc + 2#16) .ok)
  | drw (x y : Reg) (n : BitVec 4) (d : Drawing) (h : n.toNat = 0 ∨ s.i.toNat + n.toNat ≤ 4096)
    (hd : d = drawRows (s.getV x).toNat (s.mem.readBytes s.i.toNat n.toNat) (s.getV y).toNat (s.display, false)) :
    ExecNext s (.drw x y n) (((s.setDisplay d.1).setV VF (if d.2 = true then 1#8 else 0#8)).complete (s.pc + 2#16) .ok)
  | keyHeld (x : Reg) (h : s.anyPressed = none) :
    ExecNext s (.ldVxK x) { s with mode := .waitingForKey, result := .ok }
  | keyTaken (x k : Reg) (h : s.anyPressed = some k) :
    ExecNext s (.ldVxK x) (((s.setV x (BitVec.ofNat 8 k.val)).setMode .running).complete (s.pc + 2#16) .ok)

theorem finishSkipIf_eq (c : Bool) (s : State) :
    finishSkipIf c s = .next (s.complete (if c = true then s.pc + 4#16 else s.pc + 2#16) .ok) := by
  cases c <;> rfl

/-- An instruction that completes has one of the effects of ExecNext. -/
theorem exec_next {i : Instr} {s t : State} (h : exec i s = .next t) : ExecNext s i t := by
  cases i with
  | cls => injection h with h; subst h; exact .cls
  | ret =>
    rcases s.pop_eq with ⟨hh, e⟩ | ⟨_, e⟩ <;> simp only [exec, execRet, e, finishGoto, raise] at h
    · injection h with h; subst h; exact .ret hh
    · cases h
  | sys nnn => injection h with h; subst h; exact .sys nnn
  | jp nnn => injection h with h; subst h; exact .jp nnn
  | call nnn =>
    rcases s.push_eq (s.pc + 2#16) with ⟨hh, e⟩ | ⟨_, e⟩ <;> simp only [exec, execCall, e, finishGoto, raise] at h
    · injection h with h; subst h; exact .call nnn hh
    · cases h
  | seImm x nn =>
    simp only [exec, execSeImm, finishSkipIf_eq, beq_iff_eq] at h; injection h with h; subst h; exact .seImm x nn
  | sneImm x nn =>
    simp only [exec, execSneImm, finishSkipIf_eq, bne_iff_ne] at h; injection h with h; subst h; exact .sneImm x nn
  | seReg x y =>
    simp only [exec, execSeReg, finishSkipIf_eq, beq_iff_eq] at h; injection h with h; subst h; exact .seReg x y
  | sneReg x y =>
    simp only [exec, execSneReg, finishSkipIf_eq, bne_iff_ne] at h; injection h with h; subst h; exact .sneReg x y
  | skp x => simp only [exec, execSkp, finishSkipIf_eq] at h; injection h with h; subst h; exact .skp x
  | sknp x =>
    simp only [exec, execSknp, finishSkipIf_eq, Bool.not_eq_true'] at h; injection h with h; subst h; exact .sknp x
  | ldImm x nn => injection h with h; subst h; exact .setV _ x _ (by simp)
  | addImm x nn => injection h with h; subst h; exact .setV _ x _ (by simp)
  | ldReg x y => injection h with h; subst h; exact .setV _ x _ (by simp)
  | orReg x y => injection h with h; subst h; exact .setV _ x _ (by simp)
  | andReg x y => injection h with h; subst h; exact .setV _ x _ (by simp)
  | xorReg x y => injection h with h; subst h; exact .setV _ x _ (by simp)
  | ldVxDt x => injection h with h; subst h; exact .setV _ x _ (by simp)
  | addReg x y => injection h with h; subst h; exact .setVFlag _ x _ _ (by simp)
  | subReg x y => injection h with h; subst h; exact .setVFlag _ x _ _ (by simp)
  | subnReg x y => injection h with h; subst h; exact .setVFlag _ x _ _ (by simp)
  | shr x => injection h with h; subst h; exact .setVFlag _ x _ _ (by simp)
  | shl x => injection h with h; subst h; exact .setVFlag _ x _ _ (by simp)
  | rnd x nn => injection h with h; subst h; exact .rnd x nn
  | ldI nnn => injection h with h; subst h; exact .setI _ _ (by simp)
  | addI x => injection h with h; subst h; exact .setI _ _ (by simp)
  | ldF x => injection h with h; subst h; exact .setI _ _ (by simp)
  | jpV0 nnn => injection h with h; subst h; exact .jpV0 nnn
  | ldDtVx x => injection h with h; subst h; exact .ldDtVx x
  | ldStVx x => injection h with h; subst h; exact .ldStVx x
  | ldB x =>
    rcases storeAtI_eq (bcdDigits (s.getV x)) s (by simp [bcdDigits]) with ⟨a, e⟩ | ⟨_, e⟩ <;>
      simp only [exec, execLdB, e] at h
    · injection h with h; subst h; exact .store _ _ (by simp) a
    · cases h
  | storeRegs x =>
    have hne : s.regsUpTo x ≠ [] := fun h' => by simpa [h'] using s.regsUpTo_length x
    rcases storeAtI_eq (s.regsUpTo x) s hne with ⟨a, e⟩ | ⟨_, e⟩ <;> simp only [exec, execStoreRegs, e] at h
    · injection h with h; subst h; exact .store _ _ (by simp) a
    · cases h
  | loadRegs x =>
    cases e : rangeFault s.i.toNat (x.val + 1) <;> simp only [exec, execLoadRegs, e, finishNext, raise] at h
    · injection h with h; subst h
      exact .loadRegs x (by have := (rangeFault_eq_none _ _).1 e; omega)
    · cases h
  | drw x y n =>
    cases e : rangeFault s.i.toNat n.toNat <;> simp only [exec, execDrw, e, finishNext, raise] at h
    · injection h with h; subst h
      exact .drw x y n _ ((rangeFault_eq_none _ _).1 e) rfl
    · cases h
  | ldVxK x =>
    cases e : s.anyPressed <;> simp only [exec, execLdVxK, e] at h
    · injection h with h; subst h; exact .keyHeld x e
    · injection h with h; subst h; exact .keyTaken x _ e

end Sys2Proof.Machine
end

