-- ==== Sys2Proof/Laws/PerInstr.lean ====
section
/-! SUPPORT. Statements for all instructions, one lemma per constructor. The family EncodingMatchesRow: the word of an
instruction has exactly the fixed bits that its row of 30_encoding.md R85 prints. -/

namespace Sys2Proof.Laws.EncodingMatchesRow

/-- The encoded word satisfies its row's mask and match (30_encoding.md R84, R85). -/
def Statement (i : Instr) : Prop := encode i &&& rowMask i = rowMatch i

theorem formatA (f : BitVec 4) (nnn : BitVec 12) :
    wordA f nnn &&& ((0xF#4 : BitVec 4) ++ (0x000#12 : BitVec 12) : Word) = ((f ++ 0x000#12 : BitVec (4 + 12)) : Word) := by
  refine (BitVec.and_append (x₁ := f)).trans ?_
  rw [BitVec.and_zero, show (0xF#4 : BitVec 4) = BitVec.allOnes 4 from rfl, BitVec.and_allOnes]

theorem formatXI (f : BitVec 4) (x : Reg) (nn m : Byte) :
    wordXI f x nn &&& ((0xF#4 : BitVec 4) ++ ((0x0#4 : BitVec 4) ++ m) : Word) =
      ((f ++ ((0x0#4 : BitVec 4) ++ (nn &&& m)) : BitVec (4 + (4 + 8))) : Word) := by
  refine (BitVec.and_append (x₁ := f)).trans ?_
  rw [BitVec.and_append, BitVec.and_zero, show (0xF#4 : BitVec 4) = BitVec.allOnes 4 from rfl, BitVec.and_allOnes]

theorem formatXYN (f : BitVec 4) (x y : Reg) (n m : BitVec 4) :
    wordXYN f x y n &&& ((0xF#4 : BitVec 4) ++ ((0x0#4 : BitVec 4) ++ ((0x0#4 : BitVec 4) ++ m)) : Word) =
      ((f ++ ((0x0#4 : BitVec 4) ++ ((0x0#4 : BitVec 4) ++ (n &&& m))) : BitVec (4 + (4 + (4 + 4)))) : Word) := by
  refine (BitVec.and_append (x₁ := f)).trans ?_
  rw [BitVec.and_append, BitVec.and_append, BitVec.and_zero, BitVec.and_zero,
    show (0xF#4 : BitVec 4) = BitVec.allOnes 4 from rfl, BitVec.and_allOnes]

theorem cls : Statement .cls := rfl
theorem ret : Statement .ret := rfl
theorem sys (nnn : BitVec 12) : Statement (.sys nnn) := formatA _ nnn
theorem jp (nnn : BitVec 12) : Statement (.jp nnn) := formatA _ nnn
theorem call (nnn : BitVec 12) : Statement (.call nnn) := formatA _ nnn
theorem seImm (x : Reg) (nn : Byte) : Statement (.seImm x nn) := (formatXI _ x nn 0#8).trans (by rw [BitVec.and_zero]; rfl)
theorem sneImm (x : Reg) (nn : Byte) : Statement (.sneImm x nn) := (formatXI _ x nn 0#8).trans (by rw [BitVec.and_zero]; rfl)
theorem seReg (x y : Reg) : Statement (.seReg x y) := formatXYN _ x y _ 0xF#4
theorem ldImm (x : Reg) (nn : Byte) : Statement (.ldImm x nn) := (formatXI _ x nn 0#8).trans (by rw [BitVec.and_zero]; rfl)
theorem addImm (x : Reg) (nn : Byte) : Statement (.addImm x nn) := (formatXI _ x nn 0#8).trans (by rw [BitVec.and_zero]; rfl)
theorem ldReg (x y : Reg) : Statement (.ldReg x y) := formatXYN _ x y _ 0xF#4
theorem orReg (x y : Reg) : Statement (.orReg x y) := formatXYN _ x y _ 0xF#4
theorem andReg (x y : Reg) : Statement (.andReg x y) := formatXYN _ x y _ 0xF#4
theorem xorReg (x y : Reg) : Statement (.xorReg x y) := formatXYN _ x y _ 0xF#4
theorem addReg (x y : Reg) : Statement (.addReg x y) := formatXYN _ x y _ 0xF#4
theorem subReg (x y : Reg) : Statement (.subReg x y) := formatXYN _ x y _ 0xF#4
theorem shr (x : Reg) : Statement (.shr x) := formatXYN _ x 0 _ 0xF#4
theorem subnReg (x y : Reg) : Statement (.subnReg x y) := formatXYN _ x y _ 0xF#4
theorem shl (x : Reg) : Statement (.shl x) := formatXYN _ x 0 _ 0xF#4
theorem sneReg (x y : Reg) : Statement (.sneReg x y) := formatXYN _ x y _ 0xF#4
theorem ldI (nnn : BitVec 12) : Statement (.ldI nnn) := formatA _ nnn
theorem jpV0 (nnn : BitVec 12) : Statement (.jpV0 nnn) := formatA _ nnn
theorem rnd (x : Reg) (nn : Byte) : Statement (.rnd x nn) := (formatXI _ x nn 0#8).trans (by rw [BitVec.and_zero]; rfl)
theorem drw (x y : Reg) (n : BitVec 4) : Statement (.drw x y n) :=
  (formatXYN _ x y n 0#4).trans (by rw [BitVec.and_zero]; rfl)
theorem skp (x : Reg) : Statement (.skp x) := formatXI _ x _ 0xFF#8
theorem sknp (x : Reg) : Statement (.sknp x) := formatXI _ x _ 0xFF#8
theorem ldVxDt (x : Reg) : Statement (.ldVxDt x) := formatXI _ x _ 0xFF#8
theorem ldVxK (x : Reg) : Statement (.ldVxK x) := formatXI _ x _ 0xFF#8
theorem ldDtVx (x : Reg) : Statement (.ldDtVx x) := formatXI _ x _ 0xFF#8
theorem ldStVx (x : Reg) : Statement (.ldStVx x) := formatXI _ x _ 0xFF#8
theorem addI (x : Reg) : Statement (.addI x) := formatXI _ x _ 0xFF#8
theorem ldF (x : Reg) : Statement (.ldF x) := formatXI _ x _ 0xFF#8
theorem ldB (x : Reg) : Statement (.ldB x) := formatXI _ x _ 0xFF#8
theorem storeRegs (x : Reg) : Statement (.storeRegs x) := formatXI _ x _ 0xFF#8
theorem loadRegs (x : Reg) : Statement (.loadRegs x) := formatXI _ x _ 0xFF#8

end Sys2Proof.Laws.EncodingMatchesRow
end

