-- ==== Sys2Proof/Tests/Slice0.lean ====
section
/-! SUPPORT. Tests, each on one step of a small state, with results taken from the tables of 95_test_vectors.md (the ids S,
A, B, M, G, T, K, X, L) or worked out from the rule named; and a witness for the hypotheses of each statement. -/

namespace Sys2Proof.Tests

open Sys2Proof Sys2Proof.Machine Sys2Proof.Safety

/-! ### Helpers -/

/-- The reset state with the word `w` at PC. -/
def start (w : Nat) : State := State.reset.withFetchWord 16 w

/-- `s` with some registers set. -/
def withV (s : State) (l : List (Reg × Byte)) : State := l.foldl (fun s p => s.setV p.1 p.2) s

/-- `s` with bytes stored from address `a` up. -/
def withBytes (s : State) (a : Nat) (bs : List Byte) : State := s.setMem (s.mem.writeBytes a bs)

/-- `s` with key `k` down. -/
def withKey (s : State) (k : Reg) : State := { s with keys := s.keys.set k.val true }

/-- The step from `s` gives a next state that passes `p`. -/
def stepsTo (s : State) (p : State → Bool) : Bool :=
  match step s with
  | .next t => p t
  | .fault _ => false
  | .refused _ => false

/-- The step from `s` faults with `f`. -/
def stepFaults (s : State) (f : Fault) : Bool :=
  match step s with
  | .next _ => false
  | .fault g => g == f
  | .refused _ => false

/-! ### Well-formed terms: the one check (30_encoding.md R88) -/

theorem test_sys_0E0_is_ill_formed : (Instr.sys 0x0E0#12).wellFormed = false := by decide
theorem test_sys_0EE_is_ill_formed : (Instr.sys 0x0EE#12).wellFormed = false := by decide
theorem test_sys_0E1_is_well_formed : (Instr.sys 0x0E1#12).wellFormed = true := by decide

/-! ### Decoding: words written out bit by bit from 30_encoding.md R82 and R85 -/

/-- Family 0: 0000 0000 1110 0000, 0000 0000 1110 1110, 0000 nnnn nnnn nnnn. -/
theorem test_decode_family_0 :
    decode 0b0000000011100000#16 = .ok .cls ∧ decode 0b0000000011101110#16 = .ok .ret ∧
    decode 0b0000000100100011#16 = .ok (.sys 0x123#12) := by decide

/-- Jumps and call: 0001 nnn, 0010 nnn, 1011 nnn. -/
theorem test_decode_jumps :
    decode 0b0001001000110100#16 = .ok (.jp 0x234#12) ∧ decode 0b0010001100000000#16 = .ok (.call 0x300#12) ∧
    decode 0b1011111111111111#16 = .ok (.jpV0 0xFFF#12) := by decide

/-- Skips on register values: 0011 x nn, 0100 x nn, 0101 x y 0000, 1001 x y 0000. -/
theorem test_decode_skips :
    decode 0b0011000100010000#16 = .ok (.seImm 1 0x10#8) ∧ decode 0b0100000100010001#16 = .ok (.sneImm 1 0x11#8) ∧
    decode 0b0101000100100000#16 = .ok (.seReg 1 2) ∧ decode 0b1001000100100000#16 = .ok (.sneReg 1 2) := by decide

/-- Immediates and the random byte: 0110 x nn, 0111 x nn, 1100 x nn. -/
theorem test_decode_immediates :
    decode 0b0110101000101011#16 = .ok (.ldImm 10 0x2B#8) ∧ decode 0b0111001100000101#16 = .ok (.addImm 3 0x05#8) ∧
    decode 0b1100001100001111#16 = .ok (.rnd 3 0x0F#8) := by decide

/-- Family 8: 1000 x y and the last nibble 0 to 7 and E. -/
theorem test_decode_family_8 :
    decode 0b1000001000010000#16 = .ok (.ldReg 2 1) ∧ decode 0b1000001000010001#16 = .ok (.orReg 2 1) ∧
    decode 0b1000001000010010#16 = .ok (.andReg 2 1) ∧ decode 0b1000001000010011#16 = .ok (.xorReg 2 1) ∧
    decode 0b1000001000010100#16 = .ok (.addReg 2 1) ∧ decode 0b1000001000010101#16 = .ok (.subReg 2 1) ∧
    decode 0b1000001001110110#16 = .ok (.shr 2) ∧ decode 0b1000001000010111#16 = .ok (.subnReg 2 1) ∧
    decode 0b1000001001111110#16 = .ok (.shl 2) := by decide

/-- The index and the draw: 1010 nnn, 1101 x y n. -/
theorem test_decode_index_and_draw :
    decode 0b1010001011110000#16 = .ok (.ldI 0x2F0#12) ∧ decode 0b1101000100100101#16 = .ok (.drw 1 2 5#4) := by decide

/-- Key skips: 1110 x 1001 1110, 1110 x 1010 0001. -/
theorem test_decode_key_skips :
    decode 0b1110001010011110#16 = .ok (.skp 2) ∧ decode 0b1110001010100001#16 = .ok (.sknp 2) := by decide

/-- Family F: 1111 x and the last byte 07, 0A, 15, 18, 1E, 29, 33, 55, 65. -/
theorem test_decode_family_F :
    decode 0b1111001100000111#16 = .ok (.ldVxDt 3) ∧ decode 0b1111010100001010#16 = .ok (.ldVxK 5) ∧
    decode 0b1111001100010101#16 = .ok (.ldDtVx 3) ∧ decode 0b1111001100011000#16 = .ok (.ldStVx 3) ∧
    decode 0b1111001000011110#16 = .ok (.addI 2) ∧ decode 0b1111010000101001#16 = .ok (.ldF 4) ∧
    decode 0b1111010100110011#16 = .ok (.ldB 5) ∧ decode 0b1111001001010101#16 = .ok (.storeRegs 2) ∧
    decode 0b1111001001100101#16 = .ok (.loadRegs 2) := by decide

/-- Unknown words, X7 to X13 and S10. -/
theorem test_decode_unknown :
    [0x5121#16, 0x8008#16, 0x800F#16, 0x9001#16, 0xE09F#16, 0xF000#16, 0xF075#16, 0xFFFF#16].all
      (fun w => decode w == .error (.unknownOpcode w)) = true := by decide

/-- The encoder, on a word with every field in use. -/
theorem test_encode_drw : encode (.drw 1 2 5#4) = 0b1101000100100101#16 := by decide

/-- The table's numbering: 16 bits, the opcode as one number; a shift keeps its Y bits out. -/
theorem test_table_word : decodeTableWord 16 0xD125 = some (.drw 1 2 5#4) ∧ decodeTableWord 16 0x8008 = none := by decide

/-! ### Reset -/

/-- L1: the font's first and last byte, the byte after it, the program region, PC. -/
theorem test_reset :
    State.reset.mem.read 0 = 0xF0#8 ∧ State.reset.mem.read 0x4F = 0x80#8 ∧ State.reset.mem.read 0x50 = 0#8 ∧
    State.reset.mem.read 0x200 = 0#8 ∧ State.reset.pc = 0x200#16 ∧ State.reset.mem.wf = true := by decide

/-! ### Arithmetic, logic, random (95_test_vectors.md 2.1) -/

/-- A2. -/
theorem test_ldImm_vf : stepsTo (start 0x6F77) (fun t => t.getV VF == 0x77#8 && t.pc == 0x202#16) = true := by
  decide
/-- A4. -/
theorem test_addImm_no_flag :
    stepsTo (withV (start 0x7301) [(3, 0xFF#8), (VF, 0x55#8)]) (fun t => t.getV 3 == 0#8 && t.getV VF == 0x55#8) = true := by
  decide
/-- A5. -/
theorem test_ldReg : stepsTo (withV (start 0x8210) [(1, 7#8)]) (fun t => t.getV 2 == 7#8 && t.getV 1 == 7#8) = true := by
  decide
/-- A6. -/
theorem test_orReg :
    stepsTo (withV (start 0x8011) [(0, 0xF0#8), (1, 0x0F#8), (VF, 9#8)])
      (fun t => t.getV 0 == 0xFF#8 && t.getV VF == 9#8) = true := by decide
/-- A7. -/
theorem test_andReg :
    stepsTo (withV (start 0x8012) [(0, 0xF0#8), (1, 0x3C#8), (VF, 9#8)])
      (fun t => t.getV 0 == 0x30#8 && t.getV VF == 9#8) = true := by decide
/-- A8. -/
theorem test_xorReg :
    stepsTo (withV (start 0x8013) [(0, 0xF0#8), (1, 0x3C#8), (VF, 9#8)])
      (fun t => t.getV 0 == 0xCC#8 && t.getV VF == 9#8) = true := by decide
/-- S3. -/
theorem test_addReg_carry :
    stepsTo (withV (start 0x8014) [(0, 0xFF#8), (1, 0x01#8)]) (fun t => t.getV 0 == 0#8 && t.getV VF == 1#8) = true := by
  decide
/-- A13: X = F, the result is lost. -/
theorem test_addReg_into_vf :
    stepsTo (withV (start 0x8F14) [(VF, 0xF0#8), (1, 0x20#8)]) (fun t => t.getV VF == 1#8) = true := by decide
/-- S4. -/
theorem test_subReg_borrow :
    stepsTo (withV (start 0x8015) [(0, 0x01#8), (1, 0x02#8)]) (fun t => t.getV 0 == 0xFF#8 && t.getV VF == 0#8) = true := by
  decide
/-- A15: equal operands give no borrow. -/
theorem test_subReg_equal :
    stepsTo (withV (start 0x8015) [(0, 5#8), (1, 5#8)]) (fun t => t.getV 0 == 0#8 && t.getV VF == 1#8) = true := by
  decide
/-- A21: Y is ignored. -/
theorem test_shr :
    stepsTo (withV (start 0x8276) [(2, 0x04#8), (7, 0xFF#8)])
      (fun t => t.getV 2 == 2#8 && t.getV VF == 0#8 && t.getV 7 == 0xFF#8) = true := by decide
/-- A25: X = F. -/
theorem test_shr_vf : stepsTo (withV (start 0x8F06) [(VF, 2#8)]) (fun t => t.getV VF == 0#8) = true := by decide
/-- A26. -/
theorem test_subnReg_borrow :
    stepsTo (withV (start 0x8017) [(0, 2#8), (1, 1#8)]) (fun t => t.getV 0 == 0xFF#8 && t.getV VF == 0#8) = true := by
  decide
/-- A27. -/
theorem test_subnReg :
    stepsTo (withV (start 0x8017) [(0, 1#8), (1, 3#8)]) (fun t => t.getV 0 == 2#8 && t.getV VF == 1#8) = true := by
  decide
/-- A29. -/
theorem test_shl :
    stepsTo (withV (start 0x820E) [(2, 0x81#8)]) (fun t => t.getV 2 == 2#8 && t.getV VF == 1#8) = true := by
  decide
/-- A33. -/
theorem test_rnd :
    stepsTo { start 0xC30F with rands := [0xA7#8, 0x01#8] } (fun t => t.getV 3 == 0x07#8 && t.rands == [0x01#8]) = true := by
  decide

/-! ### Control flow (2.2) -/

/-- B3: an odd target. -/
theorem test_jp : stepsTo (start 0x1201) (fun t => t.pc == 0x201#16 && t.result == .ok) = true := by decide
/-- B5: the last free entry. -/
theorem test_call_last_entry :
    stepsTo { start 0x2300 with sp := 15 } (fun t => t.stack[15] == 0x202#16 && t.sp == 16 && t.pc == 0x300#16) = true := by
  decide
/-- B6. -/
theorem test_call_overflow : stepFaults { start 0x2300 with sp := 16 } .stackOverflow = true := by decide
/-- B8: the entry is kept. -/
theorem test_ret :
    stepsTo { start 0x00EE with sp := 1, stack := State.reset.stack.set 0 0x2A4#16 }
      (fun t => t.sp == 0 && t.pc == 0x2A4#16 && t.stack[0] == 0x2A4#16) = true := by decide
/-- B9. -/
theorem test_ret_underflow : stepFaults (start 0x00EE) .stackUnderflow = true := by decide
/-- B10. -/
theorem test_seImm_equal : stepsTo (withV (start 0x3110) [(1, 0x10#8)]) (fun t => t.pc == 0x204#16) = true := by decide
/-- B11. -/
theorem test_seImm_differs : stepsTo (withV (start 0x3111) [(1, 0x10#8)]) (fun t => t.pc == 0x202#16) = true := by decide
/-- B12. -/
theorem test_sneImm_equal : stepsTo (withV (start 0x4110) [(1, 0x10#8)]) (fun t => t.pc == 0x202#16) = true := by decide
/-- B13. -/
theorem test_sneImm_differs : stepsTo (withV (start 0x4111) [(1, 0x10#8)]) (fun t => t.pc == 0x204#16) = true := by decide
/-- B14. -/
theorem test_seReg_equal :
    stepsTo (withV (start 0x5120) [(1, 9#8), (2, 9#8)]) (fun t => t.pc == 0x204#16) = true := by decide
/-- B15. -/
theorem test_seReg_differs :
    stepsTo (withV (start 0x5120) [(1, 9#8), (2, 8#8)]) (fun t => t.pc == 0x202#16) = true := by decide
/-- B17. -/
theorem test_sneReg_differs :
    stepsTo (withV (start 0x9120) [(1, 9#8), (2, 8#8)]) (fun t => t.pc == 0x204#16) = true := by decide
/-- B18. -/
theorem test_sneReg_equal :
    stepsTo (withV (start 0x9120) [(1, 9#8), (2, 9#8)]) (fun t => t.pc == 0x202#16) = true := by decide
/-- B20: the sum is not reduced; and the step from there faults. -/
theorem test_jpV0 :
    stepsTo (withV (start 0xBFFF) [(0, 0xFF#8)]) (fun t => t.pc == 0x10FE#16 && stepFaults t (.memoryFault 0x10FE)) = true := by
  decide
/-- X6: SYS reports and changes nothing else. -/
theorem test_sys :
    stepsTo { start 0x00E1 with dt := 5#8 }
      (fun t => t.pc == 0x202#16 && t.result == .unknownOpcode && t.dirty == false && t.dt == 4#8) = true := by
  decide

/-! ### Index and memory (2.3) -/

/-- M1. -/
theorem test_ldI : stepsTo (start 0xA2F0) (fun t => t.i == 0x2F0#16) = true := by decide
/-- M3: a wrap at 16 bits, no flag. -/
theorem test_addI_wraps :
    stepsTo (withV { start 0xF01E with i := 0xFFFF#16 } [(0, 2#8)]) (fun t => t.i == 1#16 && t.getV VF == 0#8) = true := by
  decide
/-- M6: the low nibble. -/
theorem test_ldF : stepsTo (withV (start 0xF429) [(4, 0x1A#8)]) (fun t => t.i == 0x32#16) = true := by decide
/-- M10: the highest legal I. -/
theorem test_ldB_top :
    stepsTo (withV { start 0xF533 with i := 0xFFD#16 } [(5, 0x7B#8)])
      (fun t => t.mem.read 0xFFD == 1#8 && t.mem.read 0xFFE == 2#8 && t.mem.read 0xFFF == 3#8) = true := by decide
/-- M11. -/
theorem test_ldB_faults :
    stepFaults (withV { start 0xF533 with i := 0xFFE#16 } [(5, 0x7B#8)]) (.memoryFault 4096) = true := by decide
/-- M12. -/
theorem test_storeRegs :
    stepsTo (withV { start 0xF255 with i := 0x400#16 } [(0, 1#8), (1, 2#8), (2, 3#8), (3, 4#8)])
      (fun t => t.mem.read 0x400 == 1#8 && t.mem.read 0x402 == 3#8 && t.mem.read 0x403 == 0#8 && t.i == 0x400#16) = true := by
  decide
/-- M15: no partial store. -/
theorem test_storeRegs_faults : stepFaults { start 0xFF55 with i := 0xFF1#16 } (.memoryFault 4096) = true := by decide
/-- M17: reading the font. -/
theorem test_loadRegs :
    stepsTo (withV (start 0xF465) [(5, 9#8)])
      (fun t => t.getV 0 == 0xF0#8 && t.getV 1 == 0x90#8 && t.getV 4 == 0xF0#8 && t.getV 5 == 9#8) = true := by
  decide
/-- M18. -/
theorem test_loadRegs_faults : stepFaults { start 0xF265 with i := 0xFFE#16 } (.memoryFault 4096) = true := by decide

/-! ### Display (2.4) -/

/-- G1. -/
theorem test_cls :
    stepsTo { start 0x00E0 with display := Grid.blank.flip 3 3 } (fun t => !t.display.cell 3 3 && t.dirty) = true := by
  decide
/-- S6: a wrap at the right edge. -/
theorem test_drw_wraps :
    stepsTo (withV (withBytes { start 0xD011 with i := 0x300#16 } 0x300 [0xFF#8]) [(0, 60#8), (1, 5#8)])
      (fun t => t.display.cell 5 60 && t.display.cell 5 63 && t.display.cell 5 0 && t.display.cell 5 3) = true := by
  decide
/-- G4: a collision; the cell is unset and the flag is 1. -/
theorem test_drw_collides :
    stepsTo { start 0xD011 with display := Grid.blank.flip 0 0 }
      (fun t => !t.display.cell 0 0 && t.display.cell 0 3 && !t.display.cell 0 4 && t.getV VF == 1#8 && t.dirty) = true := by
  decide
/-! ### Timers (2.5) -/

/-- T1: the read comes before the tick. -/
theorem test_ldVxDt :
    stepsTo { start 0xF307 with dt := 0x10#8 } (fun t => t.getV 3 == 0x10#8 && t.dt == 0x0F#8) = true := by decide
/-- T3. -/
theorem test_ldDtVx : stepsTo (withV (start 0xF315) [(3, 5#8)]) (fun t => t.dt == 4#8) = true := by decide
/-- T5: a zero stays. -/
theorem test_ldDtVx_zero : stepsTo { start 0xF315 with dt := 9#8 } (fun t => t.dt == 0#8) = true := by decide
/-- T6. -/
theorem test_ldStVx : stepsTo (withV (start 0xF318) [(3, 3#8)]) (fun t => t.st == 2#8 && t.soundActive) = true := by
  decide
/-- T7. -/
theorem test_ldStVx_one : stepsTo (withV (start 0xF318) [(3, 1#8)]) (fun t => t.st == 0#8 && !t.soundActive) = true := by
  decide

/-! ### Keys (2.6) -/

/-- K3: the low nibble. -/
theorem test_skp : stepsTo (withV (withKey (start 0xE29E) 5) [(2, 0x15#8)]) (fun t => t.pc == 0x204#16) = true := by
  decide
/-- K2. -/
theorem test_skp_up : stepsTo (withV (start 0xE29E) [(2, 7#8)]) (fun t => t.pc == 0x202#16) = true := by decide
/-- K4. -/
theorem test_sknp : stepsTo (withV (start 0xE2A1) [(2, 7#8)]) (fun t => t.pc == 0x204#16) = true := by decide
/-- K5. -/
theorem test_sknp_down : stepsTo (withV (withKey (start 0xE2A1) 7) [(2, 7#8)]) (fun t => t.pc == 0x202#16) = true := by
  decide
/-- K6: the wait holds. -/
theorem test_ldVxK_holds :
    stepsTo { start 0xF50A with dt := 2#8 }
      (fun t => t.pc == 0x200#16 && t.dt == 2#8 && t.mode == .waitingForKey && t.getV 5 == 0#8 && t.result == .ok) = true := by
  decide
/-- K7: the lowest key. -/
theorem test_ldVxK_lowest :
    stepsTo (withKey (withKey { start 0xF50A with dt := 2#8, mode := .waitingForKey } 11) 3)
      (fun t => t.getV 5 == 3#8 && t.pc == 0x202#16 && t.dt == 1#8 && t.mode == .running) = true := by decide

/-! ### Fetch and load (2.7, 2.8) -/

/-- X1: the last PC that fetches. -/
theorem test_fetch_last :
    stepsTo (withBytes { State.reset with pc := 0xFFE#16 } 0xFFE [0x60#8, 0x01#8])
      (fun t => t.getV 0 == 1#8 && t.pc == 0x1000#16 && t.result == .ok) = true := by decide
/-- X2: the first one that does not. -/
theorem test_fetch_faults : stepFaults { State.reset with pc := 0xFFF#16 } (.memoryFault 4096) = true := by decide
/-- X8: an unknown word. -/
theorem test_unknown_opcode :
    stepsTo (start 0x8008) (fun t => t.pc == 0x202#16 && t.result == .unknownOpcode && t.getV 0 == 0#8) = true := by
  decide
/-- L6: an odd length. -/
theorem test_load :
    (load State.reset [0x60#8, 0x01#8, 0x12#8]).1 = .ok ∧
    (load State.reset [0x60#8, 0x01#8, 0x12#8]).2.mem.read 0x202 = 0x12#8 := by decide

/-! ### Witnesses: a concrete state and operands that meet the hypotheses of a statement, one for each of its clauses -/

/-- `exec i s` gives a next state. -/
def completes (i : Instr) (s : State) : Bool :=
  match exec i s with
  | .next _ => true
  | .fault _ => false
  | .refused _ => false

theorem exec_of_completes {i : Instr} {s : State} (h : completes i s = true) : ∃ t, exec i s = .next t := by
  unfold completes at h
  split at h
  · next t e => exact ⟨t, e⟩
  · cases h
  · cases h

/-- The step from `s` gives a next state. -/
theorem step_of_stepsTo {s : State} {p : State → Bool} (h : stepsTo s p = true) : ∃ t, step s = .next t := by
  unfold stepsTo at h
  split at h
  · next t e => exact ⟨t, e⟩
  · cases h
  · cases h

/-- The step from `s` faults. -/
theorem step_of_stepFaults {s : State} {f : Fault} (h : stepFaults s f = true) : step s = .fault f := by
  unfold stepFaults at h
  split at h
  · cases h
  · next g e => rw [e, eq_of_beq h]
  · cases h

theorem witness_DecodeOfEncodeIsIdentity :
    (Instr.drw 1 2 5#4).wellFormed = true ∧ (Instr.sys 0x0EF#12).wellFormed = true ∧
    (Instr.sys 0x0DF#12).wellFormed = true := by decide

/-- The identity clause, and a shift with a Y field. -/
theorem witness_DecodedWordMatchesItsRow :
    decode 0xD125#16 = .ok (.drw 1 2 5#4) ∧ encode (.drw 1 2 5#4) = 0xD125#16 ∧
    decode 0x827E#16 = .ok (.shl 2) ∧ encode (.shl 2) = 0x820E#16 := by decide

/-- The four sets of unknown words at their edges, and the words beside them. -/
theorem witness_UnknownWordsAreExactlyTheTable :
    [0x5001#16, 0x5FFF#16, 0x900F#16, 0x8008#16, 0x800D#16, 0x8FFF#16, 0xE09D#16, 0xEFA2#16, 0xF000#16, 0xFFFF#16].all
      (fun w => decode w == .error (.unknownOpcode w)) = true ∧
    [0x5FF0#16, 0x9000#16, 0x8007#16, 0x800E#16, 0xE09E#16, 0xEFA1#16, 0xF007#16, 0xFF65#16, 0x0000#16, 0xDFFF#16].all
      (fun w => decode w != .error (.unknownOpcode w)) = true := by decide

theorem witness_AtMostOneRowMatches :
    0xE29E#16 ≠ 0x00E0#16 ∧ 0xE29E#16 ≠ 0x00EE#16 ∧ 0xE29E#16 &&& rowMask (.skp 2) = rowMatch (.skp 2) ∧
    0xE29E#16 &&& rowMask (.skp 3) = rowMatch (.skp 3) := by decide

/-- PC at 4094, 4095 and 4096. -/
theorem witness_FetchChecksBoundsThenReadsBigEndian :
    fetch { State.reset with pc := 4094#16 } = .ok 0#16 ∧
    step { State.reset with pc := 4095#16 } = .fault (.memoryFault 4096) ∧
    step { State.reset with pc := 4096#16 } = .fault (.memoryFault 4096) :=
  ⟨by decide, step_of_stepFaults (by decide), step_of_stepFaults (by decide)⟩

theorem witness_StepRunsTheDecodedInstruction :
    (start 0x6A2B).pc.toNat ≤ 4094 ∧
    decode ((start 0x6A2B).mem.read (start 0x6A2B).pc.toNat ++ (start 0x6A2B).mem.read ((start 0x6A2B).pc.toNat + 1)) =
      .ok (.ldImm 10 0x2B#8) := by decide

theorem witness_UnknownOpcodeIsReportedAndSteppedOver :
    fetch (start 0x8008) = .ok 0x8008#16 ∧ decode 0x8008#16 = .error (.unknownOpcode 0x8008#16) := by decide

/-- Each cause of a fault: the fetch, RET, CALL, DRW, LD B, LD [I], LD Vx, [I]. -/
theorem witness_FaultsHaveExactlyTheListedCauses :
    stepFaults { State.reset with pc := 4095#16 } (.memoryFault 4096) = true ∧
    stepFaults (start 0x00EE) .stackUnderflow = true ∧
    stepFaults { start 0x2300 with sp := 16 } .stackOverflow = true ∧
    stepFaults { start 0xD015 with i := 0xFFC#16 } (.memoryFault 4096) = true ∧
    stepFaults { start 0xF533 with i := 0x1000#16 } (.memoryFault 4096) = true ∧
    stepFaults { start 0xF155 with i := 0xFFF#16 } (.memoryFault 4096) = true ∧
    stepFaults { start 0xF065 with i := 0xFFFF#16 } (.memoryFault 0xFFFF) = true := by decide

theorem witness_FaultRepeatsUntilReset : step (start 0x00EE) = .fault .stackUnderflow :=
  step_of_stepFaults (by decide)

theorem witness_OnlyRandomReadsTheRandomInput : ∀ x nn, Instr.cls ≠ .rnd x nn := fun _ _ => nofun

/-- A jump, a call, a computed jump, a return, a held and a taken key wait, a skip and a plain instruction. -/
theorem witness_PcMovesAsTheTableSays :
    (∃ t, exec (.jp 0x234#12) State.reset = .next t) ∧ (∃ t, exec (.call 0x300#12) State.reset = .next t) ∧
    (∃ t, exec (.jpV0 0xFFF#12) State.reset = .next t) ∧ (∃ t, exec .ret { State.reset with sp := 1 } = .next t) ∧
    (∃ t, exec (.ldVxK 5) State.reset = .next t) ∧ (∃ t, exec (.ldVxK 5) (withKey State.reset 3) = .next t) ∧
    (∃ t, exec (.seImm 1 0#8) State.reset = .next t) ∧ (∃ t, exec .cls State.reset = .next t) :=
  ⟨exec_of_completes (by decide), exec_of_completes (by decide), exec_of_completes (by decide),
    exec_of_completes (by decide), exec_of_completes (by decide), exec_of_completes (by decide),
    exec_of_completes (by decide), exec_of_completes (by decide)⟩

/-- Both modes of the key latch that the wait tells apart. -/
theorem witness_NoKey : NoKey State.reset ∧ ¬ NoKey (withKey State.reset 15) := by
  unfold NoKey
  decide

theorem witness_TimersTickOncePerCompletedStep :
    (∃ t, exec (.ldVxK 5) { State.reset with dt := 2#8 } = .next t) ∧ (∃ t, exec (.ldDtVx 3) State.reset = .next t) :=
  ⟨exec_of_completes (by decide), exec_of_completes (by decide)⟩

/-- A register other than VF, for the clauses that set X = F apart. -/
theorem witness_XIsNotF : (1 : Reg) ≠ VF := by decide

/-- Bytes supplied, and none. -/
theorem witness_RandomIsMaskedAndConsumesOneByte :
    ({ State.reset with rands := [0xA7#8, 1#8] } : State).rands = 0xA7#8 :: [1#8] ∧ State.reset.rands = [] := by decide

/-- SP at 15 and 16. -/
theorem witness_CallPushesTheReturnAddress :
    completes (.call 0x300#12) { State.reset with sp := 15 } = true ∧
    completes (.call 0x300#12) { State.reset with sp := 16 } = false := by decide

/-- SP at 1 and 0. -/
theorem witness_ReturnPopsTheReturnAddress :
    completes .ret { State.reset with sp := 1 } = true ∧ completes .ret State.reset = false := by decide

theorem witness_CallThenReturnComesBack : ∃ t, exec (.call 0x300#12) State.reset = .next t :=
  exec_of_completes (by decide)

/-- Equal and different operands: V1 holds 0x10. -/
theorem witness_SkipOnImmediateComparison :
    (State.reset.setV 1 0x10#8).getV 1 = 0x10#8 ∧ (State.reset.setV 1 0x10#8).getV 1 ≠ 0x11#8 := by decide

/-- A low nibble other than 0. -/
theorem witness_SkipOnRegisterComparison :
    (1#4 : BitVec 4) ≠ 0 ∧ decode 0x5121#16 = .error (.unknownOpcode 0x5121#16) ∧
    decode 0x9121#16 = .error (.unknownOpcode 0x9121#16) := by decide

/-- I at 4093 and 4094. -/
theorem witness_DecimalDigitsAreStoredAtI :
    completes (.ldB 5) { State.reset with i := 4093#16 } = true ∧
    completes (.ldB 5) { State.reset with i := 4094#16 } = false := by decide

/-- I + X at 4095 and 4096. -/
theorem witness_BlockStoreWritesRegistersAtI :
    completes (.storeRegs 15) { State.reset with i := 4080#16 } = true ∧
    completes (.storeRegs 15) { State.reset with i := 4081#16 } = false := by decide

/-- I + X at 4095 and 4096. -/
theorem witness_BlockLoadReadsRegistersFromI :
    completes (.loadRegs 15) { State.reset with i := 4080#16 } = true ∧
    completes (.loadRegs 15) { State.reset with i := 4081#16 } = false := by decide

theorem witness_BlockLoadUndoesBlockStore :
    ∃ t u : State, exec (.storeRegs 2) { State.reset with i := 0x400#16 } = .next t ∧ u.mem = t.mem ∧ u.i = t.i := by
  obtain ⟨t, h⟩ := exec_of_completes (i := .storeRegs 2) (s := { State.reset with i := 0x400#16 }) (by decide)
  exact ⟨t, t, h, rfl, rfl⟩

theorem witness_StoredInstructionIsFetchedNext :
    (1 : Reg) ≠ 0 ∧ ({ State.reset with i := 0x202#16 } : State).i = State.reset.pc + 2#16 ∧
    ∃ t, exec (.storeRegs 1) { State.reset with i := 0x202#16 } = .next t :=
  ⟨by decide, by decide, exec_of_completes (by decide)⟩

/-- No rows at I = 0xFFFF; four rows that end at the top of memory; one row too many; a set sprite bit on a set cell, and on
a cell that is not set. -/
theorem witness_DrawInvertsExactlyTheSpriteCells :
    completes (.drw 0 1 0#4) { State.reset with i := 0xFFFF#16 } = true ∧
    completes (.drw 0 1 4#4) { State.reset with i := 0xFFC#16 } = true ∧
    completes (.drw 0 1 5#4) { State.reset with i := 0xFFC#16 } = false ∧
    SpriteOn { State.reset with display := Grid.blank.flip 0 0 } 0 1 1#4 0 0 ∧
    (Grid.blank.flip 0 0).cell 0 0 = true ∧ Grid.blank.cell 0 0 = false :=
  ⟨by decide, by decide, by decide, ⟨0, 0, by decide, by decide, by decide, by decide, by decide⟩, by decide, by decide⟩

/-- A draw that leaves its coordinates alone, over cells that were 0. -/
theorem witness_DrawTwiceRestoresTheDisplay :
    ∃ t, exec (.drw 0 1 1#4) State.reset = .next t ∧ t.getV 0 = State.reset.getV 0 ∧ t.getV 1 = State.reset.getV 1 ∧
    ∀ py px, SpriteOn State.reset 0 1 1#4 py px → State.reset.display.cell py px = false :=
  ⟨_, rfl, by decide, by decide, fun py px _ => by simp [State.reset, Grid.blank, Grid.cell]⟩

/-- The flag after the sprite at I is drawn twice in succession at the coordinates in V0 and V1. -/
def secondDrawFlag (s : State) : Option Byte :=
  match exec (.drw 0 1 1#4) s with
  | .fault _ => none
  | .refused _ => none
  | .next t =>
    match exec (.drw 0 1 1#4) t with
    | .fault _ => none
    | .refused _ => none
    | .next u => some (u.getV VF)

/-- Both values of the second draw's flag, for the sprite row 0xF0: over cells that were 0 the second draw unsets what the
first one set; over cells that were all 1 it finds them unset (44_display.md R172, R173 (c); assumption log 18). -/
theorem witness_DrawTwice_both_flags :
    secondDrawFlag State.reset = some 1#8 ∧
    secondDrawFlag { State.reset with display := (((Grid.blank.flip 0 0).flip 0 1).flip 0 2).flip 0 3 } = some 0#8 := by
  decide

/-- Why R174's gloss is not modelled beside R172: no draw at all that inverts the cells under the sprite (R172) and reports
the collision of R173 (c) leaves VF = 1 after every second draw of a sprite with a set bit (assumption log 18). -/
theorem test_no_draw_meets_gloss_and_collision (draw : State → State)
    (sprite : ∀ s py px, SpriteOn (draw s) 0 1 1#4 py px ↔ SpriteOn s 0 1 1#4 py px)
    (inverts : ∀ s py px, (draw s).display.cell py px ≠ s.display.cell py px ↔ SpriteOn s 0 1 1#4 py px)
    (collides : ∀ s, (draw s).getV VF = 1#8 ↔ ∃ py px, SpriteOn s 0 1 1#4 py px ∧ s.display.cell py px = true) :
    ¬ ∀ s, (∃ py px, SpriteOn s 0 1 1#4 py px) → (draw (draw s)).getV VF = 1#8 := by
  intro gloss
  let s : State := { State.reset with display := Vector.replicate 32 (Vector.replicate 64 true) }
  have full : ∀ py px, s.display.cell py px = true := fun py px => by simp [s, Grid.cell]
  have set : SpriteOn s 0 1 1#4 0 0 := ⟨0, 0, by decide, by decide, by decide, by decide, by decide⟩
  obtain ⟨py, px, on, one⟩ := (collides (draw s)).1 (gloss s ⟨0, 0, set⟩)
  have changed := (inverts s py px).2 ((sprite s py px).1 on)
  rw [full, one] at changed
  exact changed rfl

theorem witness_KeyWaitHoldsWhileNoKeyIsSet : NoKey State.reset := witness_NoKey.1

/-- The lowest key and the highest. -/
theorem witness_KeyWaitReportsTheLowestKey :
    (withKey (withKey State.reset 0) 9).keys[0] = true ∧ (withKey State.reset 15).keys[15] = true ∧
    ∀ j (hj : j < 15), (withKey State.reset 15).keys[j] = false := by decide

theorem witness_KeyWaitRepeatsWithoutProgress :
    fetch (start 0xF30A) = .ok 0xF30A#16 ∧ decode 0xF30A#16 = .ok (.ldVxK 3) ∧ NoKey (start 0xF30A) := by
  unfold NoKey
  decide

/-- An instruction that is none of those a statement sets apart, and completes: for the seven statements that say which
instruction writes what. -/
theorem witness_writers :
    (∃ t, exec (.ldImm 1 7#8) State.reset = .next t) ∧ (∀ x, Instr.ldImm 1 7#8 ≠ .ldB x ∧ Instr.ldImm 1 7#8 ≠ .storeRegs x) ∧
    (∀ nnn, Instr.ldImm 1 7#8 ≠ .ldI nnn) ∧ (∀ x, Instr.ldImm 1 7#8 ≠ .addI x ∧ Instr.ldImm 1 7#8 ≠ .ldF x) ∧
    Instr.ldImm 1 7#8 ≠ .ret ∧ (∀ nnn, Instr.ldImm 1 7#8 ≠ .call nnn) ∧
    (Instr.ldImm 1 7#8 ≠ .cls ∧ ∀ x y n, Instr.ldImm 1 7#8 ≠ .drw x y n) ∧ (∀ x, Instr.ldImm 1 7#8 ≠ .ldVxK x) ∧
    ¬ mayWriteReg (.ldImm 1 7#8) 2 ∧ isFlagWriter (.ldImm 1 7#8) = false ∧ ¬ mayWriteReg (.ldImm 1 7#8) VF := by
  refine ⟨exec_of_completes (by decide), ?_, ?_, ?_, ?_, ?_, ?_, ?_, ?_, ?_, ?_⟩ <;> simp [mayWriteReg, isFlagWriter, VF]

/-- The clauses for CLS and DRW, and for a flag writer. -/
theorem witness_screen_and_flag_writers :
    (∃ t, exec .cls State.reset = .next t) ∧ (∃ t, exec (.drw 0 1 1#4) State.reset = .next t) ∧
    isFlagWriter (.drw 0 1 1#4) = true :=
  ⟨exec_of_completes (by decide), exec_of_completes (by decide), rfl⟩

/-- A store at the top of memory from a state in canonical form. -/
theorem witness_StepKeepsMemoryCanonical :
    MemoryCanonical { start 0xF533 with i := 4093#16 } ∧ ∃ t, step { start 0xF533 with i := 4093#16 } = .next t :=
  ⟨by unfold MemoryCanonical; decide, step_of_stepsTo (p := fun _ => true) (by decide)⟩

/-- A computed jump from a bounded state. -/
theorem witness_StepKeepsAddressesBounded :
    AddressesBounded (start 0xBFFF) ∧ ∃ t, step (start 0xBFFF) = .next t :=
  ⟨by unfold AddressesBounded; decide, step_of_stepsTo (p := fun _ => true) (by decide)⟩

/-- A machine that waits for a key, with an FX0A at PC. -/
theorem witness_StepKeepsWaitAtKeyWait :
    WaitsAtKeyWait { start 0xF30A with mode := .waitingForKey } ∧
    ({ start 0xF30A with mode := .waitingForKey } : State).mode = .waitingForKey ∧
    ∃ t, step { start 0xF30A with mode := .waitingForKey } = .next t :=
  ⟨fun _ => ⟨0xF30A#16, 3, by decide, by decide⟩, rfl, step_of_stepsTo (p := fun _ => true) (by decide)⟩

/-- 3585 bytes and 3584 bytes. -/
theorem witness_LoadCopiesTheProgram :
    (List.replicate 3585 0#8).length > 3584 ∧ (List.replicate 3584 0#8).length ≤ 3584 := by
  simp only [List.length_replicate]
  decide

theorem witness_LoadedProgramIsFetchedFirst : ([] : List Byte).length + 2 ≤ 3584 := by decide

/-- An open window; a load and a step that close the window; a closed window; the host's other events with the window closed. -/
theorem witness_LoadIsAdmittedOnceInItsWindow :
    Session.start.loadOpen = true ∧
    Session.start.act (.load []) =
      .next { core := (load State.reset []).2, loadOpen := false, lastLoad := some .ok } ∧
    (∃ h', Session.start.act .step = .next h') ∧
    ({ Session.start with loadOpen := false } : Session).loadOpen = false ∧
    HostEvent.clearDirty ≠ .reset ∧ (∃ h', Session.act .clearDirty { Session.start with loadOpen := false } = .next h') :=
  ⟨rfl, rfl, ⟨_, rfl⟩, rfl, by decide, ⟨_, rfl⟩⟩

/-- Key indices 15 and 16. -/
theorem witness_SetKeyClearDirtyAndSupplyRandWriteOneElement :
    (15 < 16 ∧ setKey State.reset 15 true = .next (withKey State.reset 15)) ∧
    (16 ≤ 16 ∧ setKey State.reset 16 true = .refused (.keyIndexOutOfRange 16)) :=
  ⟨⟨by decide, rfl⟩, by decide, rfl⟩

/-- B2: a jump to itself. -/
theorem witness_EndOfRunIsStable : endOfRun (start 0x1200) = true := by decide

end Sys2Proof.Tests
end

/-! PROOFS. Where PC goes: what a step that stops or does not decode leaves, the key conditions in the words of the claims,
and the table of 10_state.md R26 row by row. -/

namespace Sys2Proof.Proofs

open Sys2Proof.Machine Sys2Proof.Safety

/-! ### The step event -/

/-- A word that matches no row is reported, whatever word it is. -/
theorem step_of_decode_error {s : State} {op : Word} {e : DecodeError} (hf : fetch s = .ok op)
    (hd : decode op = .error e) : step s = .next (s.complete (s.pc + 2#16) .unknownOpcode) := by
  simp only [step, hf, hd, undecoded, reportUnknown]

theorem stepEvent_of_next {s t : State} (h : step s = .next t) : stepEvent s = t := by
  rw [stepEvent, h, afterStep]

theorem stepEvent_of_fault {s : State} {f : Fault} (h : step s = .fault f) :
    stepEvent s = { s with result := f.result } := by
  rw [stepEvent, h, afterStep]

/-! ### Keys -/

theorem noKey_iff_anyPressed_eq_none (s : State) : NoKey s ↔ s.anyPressed = none :=
  (Fin.forall_iff (p := fun k : Reg => s.isPressed k = false)).symm.trans s.anyPressed_eq_none.symm

/-- The key a skip tests is the one of the low nibble (decision D12). -/
theorem skips_skp (x : Reg) (s : State) : skips (.skp x) s = s.isPressed (lowNibble (s.getV x)) := by
  simp only [skips, State.isPressed, lowNibble_val]

theorem skips_sknp (x : Reg) (s : State) : skips (.sknp x) s = !s.isPressed (lowNibble (s.getV x)) := by
  simp only [skips, State.isPressed, lowNibble_val]

/-! ### The rows of 10_state.md R26 -/

theorem exec_jp_pc {nnn : BitVec 12} {s t : State} (h : exec (.jp nnn) s = .next t) : t.pc = zextAddr nnn := by
  cases h
  rfl

theorem exec_jpV0_pc {nnn : BitVec 12} {s t : State} (h : exec (.jpV0 nnn) s = .next t) :
    t.pc = zextAddr nnn + zextByte (s.getV V0) := by
  cases h
  rfl

/-- A target of at most 4095 and a byte add up below 65536, so the computed jump does not wrap (10_state.md R27). -/
theorem zextAddr_add_zextByte_toNat (nnn : BitVec 12) (b : Byte) :
    (zextAddr nnn + zextByte b).toNat = nnn.toNat + b.toNat := by
  rw [BitVec.toNat_add, zextAddr_toNat, zextByte_toNat]
  omega

/-- A call that completes goes to its target with the return address on top of the old stack. -/
theorem exec_call_pc_stack {nnn : BitVec 12} {s t : State} (h : exec (.call nnn) s = .next t) :
    t.pc = zextAddr nnn ∧ ∃ hs : s.sp.val < 16, t.stack = s.stack.set s.sp.val (s.pc + 2#16) hs := by
  cases exec_next h with
  | call _ hs => exact ⟨rfl, hs, rfl⟩
  | setV _ _ _ hi | setVFlag _ _ _ _ hi | setI _ _ hi | store _ _ hi => simp at hi

theorem exec_ret_pc {s t : State} (h : exec .ret s = .next t) :
    ∃ hs : s.sp.val - 1 < 16, t.pc = s.stack[s.sp.val - 1] := by
  cases exec_next h with
  | ret => exact ⟨by omega, rfl⟩
  | setV _ _ _ hi | setVFlag _ _ _ _ hi | setI _ _ hi | store _ _ hi => simp at hi

theorem exec_ldVxK_pc {x : Reg} {s t : State} (h : exec (.ldVxK x) s = .next t) :
    (NoKey s → t.pc = s.pc) ∧ (¬ NoKey s → t.pc = s.pc + 2#16) := by
  rw [noKey_iff_anyPressed_eq_none]
  cases exec_next h with
  | keyHeld _ hk => exact ⟨fun _ => rfl, fun hn => absurd hk hn⟩
  | keyTaken _ k hk => exact ⟨fun hn => by simp [hn] at hk, fun _ => rfl⟩
  | setV _ _ _ hi | setVFlag _ _ _ _ hi | setI _ _ hi | store _ _ hi => simp at hi

/-- An instruction with no row of its own moves PC by 4 when it is a skip whose condition holds, and by 2 otherwise. -/
theorem exec_pc_of_no_own_row {i : Instr} {s t : State} (hj : ∀ nnn, i ≠ .jp nnn ∧ i ≠ .call nnn ∧ i ≠ .jpV0 nnn)
    (hr : i ≠ .ret) (hk : ∀ x, i ≠ .ldVxK x) (h : exec i s = .next t) :
    t.pc = if skips i s = true then s.pc + 4#16 else s.pc + 2#16 := by
  cases exec_next h with
  | jp nnn | call nnn | jpV0 nnn =>
    obtain ⟨hjp, hcall, hjpV0⟩ := hj nnn
    contradiction
  | ret => contradiction
  | keyHeld x | keyTaken x => exact absurd rfl (hk x)
  | seImm | sneImm | seReg | sneReg => simp [skips]
  | skp | sknp => simp [skips_skp, skips_sknp]
  | cls | sys | rnd | ldDtVx | ldStVx | loadRegs | drw => rfl
  | setV _ _ _ hs =>
    obtain ⟨_, rfl, _⟩ | ⟨_, rfl, _⟩ | ⟨_, rfl, _⟩ | ⟨_, rfl, _⟩ | ⟨_, rfl, _⟩ | ⟨_, rfl, _⟩ | ⟨rfl, _⟩ := hs <;> rfl
  | setVFlag _ _ _ _ hs =>
    obtain ⟨_, rfl, _⟩ | ⟨_, rfl, _⟩ | ⟨_, rfl, _⟩ | ⟨rfl, _⟩ | ⟨rfl, _⟩ := hs <;> rfl
  | setI _ _ hs => obtain ⟨_, rfl, _⟩ | ⟨_, rfl, _⟩ | ⟨_, rfl, _⟩ := hs <;> rfl
  | store _ _ hs => obtain ⟨_, rfl, _⟩ | ⟨_, rfl, _⟩ := hs <;> rfl

/-- Settles O14: each row of 10_state.md R26 by its own lemma, unknown words by the report, faults by the step event. -/
theorem pcMovesAsTheTableSays : Obligations.PcMovesAsTheTableSays := by
  refine ⟨fun i s t h => ⟨?_, ?_, ?_, ?_, ?_, ?_, ?_⟩, fun s op e hf hd => ?_, fun s f h => ?_⟩
  · rintro nnn (rfl | rfl)
    · rw [exec_jp_pc h, zextAddr_toNat]
    · rw [(exec_call_pc_stack h).1, zextAddr_toNat]
  · rintro nnn rfl
    obtain ⟨-, hs, hstack⟩ := exec_call_pc_stack h
    exact ⟨hs, by simp only [hstack, Vector.getElem_set_self]⟩
  · rintro nnn rfl
    rw [exec_jpV0_pc h, zextAddr_add_zextByte_toNat]
  · rintro rfl
    exact exec_ret_pc h
  · rintro x rfl
    exact (exec_ldVxK_pc h).1
  · rintro x rfl
    exact (exec_ldVxK_pc h).2
  · exact fun hj hr hk => exec_pc_of_no_own_row hj hr hk h
  · rw [stepEvent_of_next (step_of_decode_error hf hd), State.complete_pc]
  · rw [stepEvent_of_fault h]

end Sys2Proof.Proofs

/-! PROOFS. What a load does: refused when the program is too long, and otherwise one run of writes from 0x200
(20_memory.md R61). -/

namespace Sys2Proof.Proofs

open Sys2Proof.Machine

theorem load_of_too_long {s : State} {bytes : List Byte} (h : 3584 < bytes.length) :
    load s bytes = (.romTooLarge, s) := if_pos h

theorem load_of_fits {s : State} {bytes : List Byte} (h : bytes.length ≤ 3584) :
    load s bytes = (.ok, s.setMem (s.mem.writeBytes 0x200 bytes)) := if_neg (Nat.not_lt.2 h)

/-- A run of writes read back at its `k`-th address. -/
theorem read_writeBytes_add (m : Memory) (a : Nat) (bs : List Byte) {k : Nat} (h : k < bs.length) :
    (m.writeBytes a bs).read (a + k) = bs[k] := by
  have hin : a ≤ a + k ∧ a + k < a + bs.length := by omega
  rw [Memory.read_writeBytes, if_pos hin, Nat.add_sub_cancel_left, List.getD_eq_getElem _ _ h]

/-- A run of writes leaves every address outside it as it was. -/
theorem read_writeBytes_outside (m : Memory) (a : Nat) (bs : List Byte) {x : Nat}
    (h : ¬ (a ≤ x ∧ x < a + bs.length)) : (m.writeBytes a bs).read x = m.read x := by
  rw [Memory.read_writeBytes, if_neg h]

/-- Settles O56: the two branches of `load`, and for the one that copies, a run of writes read inside and outside it. -/
theorem loadCopiesTheProgram : Obligations.LoadCopiesTheProgram := by
  refine fun s bytes => ⟨load_of_too_long, fun hfits => ⟨_, load_of_fits hfits, fun k hk => ?_, fun a ha => ?_, rfl⟩⟩
  · rw [State.setMem_mem, read_writeBytes_add _ _ _ hk]
  · rw [State.setMem_mem, read_writeBytes_outside _ _ _ ha]

end Sys2Proof.Proofs

/-! PROOFS. The step cycle: what the fetch answers on each side of the last word of memory (40_step_cycle.md R101), and the
held step of LD Vx, K (R105). -/

namespace Sys2Proof.Proofs

open Sys2Proof.Machine Sys2Proof.Safety

/-! ### The fetch -/

/-- The range check of a fetch from 4095 up fails before any byte is read. -/
theorem fetch_of_pc_ge {s : State} (h : 4095 ≤ s.pc.toNat) :
    fetch s = .error (.memoryFault (max s.pc.toNat 4096)) := by
  have hcheck : rangeFault s.pc.toNat 2 = some (.memoryFault (max s.pc.toNat 4096)) :=
    (rangeFault_eq_some _ _ _).2 ⟨by omega, by omega, rfl⟩
  rw [fetch, hcheck]

theorem fetch_of_pc_le {s : State} (h : s.pc.toNat ≤ 4094) :
    fetch s = .ok (composeWord (s.mem.read s.pc.toNat) (s.mem.read (s.pc.toNat + 1))) := by
  have hcheck : rangeFault s.pc.toNat 2 = none := (rangeFault_eq_none _ _).2 (.inr (by omega))
  rw [fetch, hcheck]

theorem step_of_fetch_error {s : State} {f : Fault} (h : fetch s = .error f) : step s = .fault f := by
  simp only [step, h, raise]

/-! ### The bytes of a word (20_memory.md R63) -/

theorem composeWord_high (hi lo : Byte) : (composeWord hi lo).extractLsb' 8 8 = hi :=
  BitVec.extractLsb'_append_eq_left

theorem composeWord_low (hi lo : Byte) : (composeWord hi lo).extractLsb' 0 8 = lo :=
  BitVec.extractLsb'_append_eq_right

/-- Settles O6: the fetch's range check splits at 4094, and the fetched word's two halves are the bytes it was composed of. -/
theorem fetchChecksBoundsThenReadsBigEndian : Obligations.FetchChecksBoundsThenReadsBigEndian := by
  refine fun s => ⟨fun hpc => ?_, fun hpc => ?_⟩
  · have hstep := step_of_fetch_error (fetch_of_pc_ge hpc)
    exact ⟨⟨_, hstep⟩, stepEvent_of_fault hstep⟩
  · exact ⟨_, fetch_of_pc_le hpc, composeWord_high _ _, composeWord_low _ _⟩

/-! ### The wait for a key -/

/-- LD Vx, K while the scan of the keys finds none: the step is held in mode WaitingForKey. -/
theorem exec_ldVxK_of_anyPressed_eq_none (x : Reg) {s : State} (h : s.anyPressed = none) :
    exec (.ldVxK x) s = finishHold (s.setMode .waitingForKey) := by
  simp only [exec, execLdVxK, h]

/-- Settles O41: with no key set the scan finds none, and a held step writes the mode and the result alone. -/
theorem keyWaitHoldsWhileNoKeyIsSet : Obligations.KeyWaitHoldsWhileNoKeyIsSet := fun x s hkeys =>
  exec_ldVxK_of_anyPressed_eq_none x ((noKey_iff_anyPressed_eq_none s).1 hkeys)

end Sys2Proof.Proofs

/-! PROOFS. Arithmetic with a flag: what a completed step leaves when it writes registers alone, what the registers hold after
a result and its flag (41_arithmetic_logic.md R120), and the two sums of R127 and R128. -/

namespace Sys2Proof.Proofs

open Sys2Proof.Machine Sys2Proof.Safety

/-! ### A completed step that writes registers alone -/

theorem ticked_complete (s : State) (p : Word) (r : StepResult) : Ticked s (s.complete p r) :=
  ⟨tickByte_toNat s.dt, tickByte_toNat s.st⟩

/-- A completion after a change of the register file alone is an ordinary step: only the registers are left to look at. -/
theorem ordinaryStep_complete_of_keepsRegs {s : State} {v : Vector Byte 16} {rs : List Reg}
    (hregs : KeepsRegs rs s { s with v := v }) (p : Word) :
    OrdinaryStep s (({ s with v := v } : State).complete p .ok) p rs where
  pc := rfl
  result := rfl
  ticked := ticked_complete s p .ok
  regs := hregs
  mem := fun _ => rfl
  index := rfl
  stack := ⟨rfl, rfl⟩
  screen := ⟨rfl, rfl⟩
  inputs := ⟨rfl, rfl, rfl⟩
  mode := rfl

/-! ### A result and its flag -/

@[simp] theorem getV_setVFlag_VF (s : State) (x : Reg) (b f : Byte) : (s.setVFlag x b f).getV VF = f := by
  rw [State.getV_setVFlag, if_pos rfl]

theorem getV_setVFlag_of_ne_VF (s : State) {x : Reg} (b f : Byte) (hx : x ≠ VF) :
    (s.setVFlag x b f).getV x = b := by
  rw [State.getV_setVFlag, if_neg hx, if_pos rfl]

theorem keepsRegs_setVFlag (s : State) (x : Reg) (b f : Byte) : KeepsRegs [x, VF] s (s.setVFlag x b f) := by
  intro r hr
  obtain ⟨hrx, hrf⟩ : r ≠ x ∧ r ≠ VF := by simpa using hr
  rw [State.getV_setVFlag, if_neg hrf, if_neg hrx]

theorem ordinaryStep_setVFlag_complete (s : State) (x : Reg) (b f : Byte) (p : Word) :
    OrdinaryStep s ((s.setVFlag x b f).complete p .ok) p [x, VF] :=
  ordinaryStep_complete_of_keepsRegs (keepsRegs_setVFlag s x b f) p

theorem flagByte_decide (c : Prop) [Decidable c] : flagByte (decide c) = if c then 1#8 else 0#8 := by
  by_cases h : c <;> simp [flagByte, h]

/-- The register difference of R128 and R130 as a number: BitVec subtraction is the integer difference modulo 256. -/
theorem byte_sub_toNat (a b : Byte) : ((a - b).toNat : Int) = (a.toNat - b.toNat : Int) % 256 := by
  have := b.isLt
  rw [BitVec.toNat_sub]
  omega

/-! ### The two instructions -/

theorem exec_addReg (x y : Reg) (s : State) : exec (.addReg x y) s = .next
    ((s.setVFlag x (s.getV x + s.getV y) (carry (s.getV x) (s.getV y))).complete (s.pc + 2#16) .ok) := rfl

theorem exec_subReg (x y : Reg) (s : State) : exec (.subReg x y) s = .next
    ((s.setVFlag x (s.getV x - s.getV y) (notBorrow (s.getV x) (s.getV y))).complete (s.pc + 2#16) .ok) := rfl

/-- Settles O18: the flag is written last, so it stands for X = F too, and both values are those before the step. -/
theorem addRegistersSetsCarry : Obligations.AddRegistersSetsCarry := by
  refine fun x y s => ⟨_, exec_addReg x y s, fun hx => ?_, ?_, ordinaryStep_setVFlag_complete _ _ _ _ _⟩
  · rw [State.getV_complete, getV_setVFlag_of_ne_VF _ _ _ hx, BitVec.toNat_add]
  · rw [State.getV_complete, getV_setVFlag_VF, carry, flagByte_decide]

/-- Settles O19: as for the sum, with the byte difference read as the integer difference modulo 256. -/
theorem subtractSetsNotBorrow : Obligations.SubtractSetsNotBorrow := by
  refine fun x y s => ⟨_, exec_subReg x y s, fun hx => ?_, ?_, ordinaryStep_setVFlag_complete _ _ _ _ _⟩
  · rw [State.getV_complete, getV_setVFlag_of_ne_VF _ _ _ hx, byte_sub_toNat]
  · rw [State.getV_complete, getV_setVFlag_VF, notBorrow, flagByte_decide]

end Sys2Proof.Proofs

/-! PROOFS. Control flow: a completion that changes no other element, the skips with their condition as an `if`
(42_control_flow.md R150), and the low nibble of families 5 and 9 (R147, R148). -/

namespace Sys2Proof.Proofs

open Sys2Proof.Machine Sys2Proof.Safety

/-! ### A step that moves PC and nothing else -/

theorem ordinaryStep_complete (s : State) (p : Word) : OrdinaryStep s (s.complete p .ok) p [] :=
  ordinaryStep_complete_of_keepsRegs (v := s.v) (fun _ _ => rfl) p

theorem exec_jp (nnn : BitVec 12) (s : State) : exec (.jp nnn) s = .next (s.complete (zextAddr nnn) .ok) := rfl

/-- Settles O23: the completion goes to NNN zero-extended and checks no target. -/
theorem jumpSetsPc : Obligations.JumpSetsPc :=
  fun nnn s => ⟨_, exec_jp nnn s, zextAddr_toNat nnn, ordinaryStep_complete s _⟩

/-! ### Skips -/

/-- A skip on equality completes, with PC + 4 where the two bytes are equal. -/
theorem finishSkipIf_beq_completes (a b : Byte) (s : State) : ∃ t, finishSkipIf (a == b) s = .next t ∧
    OrdinaryStep s t (if a = b then s.pc + 4#16 else s.pc + 2#16) [] := by
  rw [finishSkipIf_eq]
  simp only [beq_iff_eq]
  exact ⟨_, rfl, ordinaryStep_complete s _⟩

/-- A skip on inequality completes, with PC + 2 where the two bytes are equal. -/
theorem finishSkipIf_bne_completes (a b : Byte) (s : State) : ∃ t, finishSkipIf (a != b) s = .next t ∧
    OrdinaryStep s t (if a = b then s.pc + 2#16 else s.pc + 4#16) [] := by
  rw [finishSkipIf_eq]
  simp only [bne_iff_ne, ite_not]
  exact ⟨_, rfl, ordinaryStep_complete s _⟩

/-- Settles O28: both are a skip on the two bytes Vx and NN. -/
theorem skipOnImmediateComparison : Obligations.SkipOnImmediateComparison :=
  fun x nn s => ⟨finishSkipIf_beq_completes (s.getV x) nn s, finishSkipIf_bne_completes (s.getV x) nn s⟩

/-! ### The low nibble of families 5 and 9 -/

theorem decode_wordXYN_five (x y : Reg) (n : BitVec 4) :
    decode (wordXYN 0x5#4 x y n) = decodeXY0 (wordXYN 0x5#4 x y n) .seReg := by
  simp only [decode, fieldF_wordXYN]

theorem decode_wordXYN_nine (x y : Reg) (n : BitVec 4) :
    decode (wordXYN 0x9#4 x y n) = decodeXY0 (wordXYN 0x9#4 x y n) .sneReg := by
  simp only [decode, fieldF_wordXYN]

theorem decodeXY0_wordXYN_of_ne_zero (f : BitVec 4) (x y : Reg) {n : BitVec 4} (hn : n ≠ 0x0#4)
    (i : Reg → Reg → Instr) :
    decodeXY0 (wordXYN f x y n) i = .error (.unknownOpcode (wordXYN f x y n)) := by
  rw [decodeXY0, fieldN_wordXYN, if_neg hn]

/-- Settles O29: both are a skip on the two register values, and their words with another low nibble match no row. -/
theorem skipOnRegisterComparison : Obligations.SkipOnRegisterComparison := by
  refine ⟨fun x y s => ⟨?_, ?_⟩, fun x y n hn => ⟨?_, ?_⟩⟩
  · exact finishSkipIf_beq_completes (s.getV x) (s.getV y) s
  · exact finishSkipIf_bne_completes (s.getV x) (s.getV y) s
  · rw [decode_wordXYN_five, decodeXY0_wordXYN_of_ne_zero _ _ _ hn]
  · rw [decode_wordXYN_nine, decodeXY0_wordXYN_of_ne_zero _ _ _ hn]

end Sys2Proof.Proofs

/-! PROOFS. The display: CLS as a completion from the state with a blank display and the dirty flag raised
(44_display.md R171). -/

namespace Sys2Proof.Proofs

open Sys2Proof.Machine Sys2Proof.Safety

theorem exec_cls (s : State) :
    exec .cls s = .next ((s.setDisplay Grid.blank).complete (s.pc + 2#16) .ok) := rfl

/-- Settles O36: every cell of the blank display is 0, and past the change of display the step is a plain completion. -/
theorem clearBlanksTheDisplay : Obligations.ClearBlanksTheDisplay := by
  refine fun s => ⟨_, exec_cls s, fun y x => ?_, ?_, ordinaryStep_complete (s.setDisplay Grid.blank) _⟩
  · rw [State.complete_display, State.setDisplay_display, Grid.cell_blank]
  · rw [State.complete_dirty, State.setDisplay_dirty]

end Sys2Proof.Proofs

/-! PROOFS. The decoder and the encoder: a word is put together again from its fields, what each family decodes gives
the word back, and a word with the fixed bits of a row decodes to an instruction of that row
(30_encoding.md R84 to R90). -/

namespace Sys2Proof.Proofs

/-- Settles O1: each word is run through the decoder. -/
theorem tableWordsDecodeAsPrinted : Obligations.TableWordsDecodeAsPrinted := by
  unfold Obligations.TableWordsDecodeAsPrinted
  decide

/-! ### Encode, then decode -/

/-- The decoder's last arm is family F. -/
theorem decode_of_fieldF_eq_F {op : Word} (h : fieldF op = 0xF#4) : decode op = decodeFamilyF op := by
  simp only [decode, h]
  rfl

/-- Settles O2, by format: the fields of an encoded word are the operands it was made from, so each row decodes to its
own instruction; SYS is told apart from CLS and RET by the well-formedness check. -/
theorem decodeOfEncodeIsIdentity : Obligations.DecodeOfEncodeIsIdentity := by
  intro i hwf
  cases i with
  | cls | ret => rfl
  | sys nnn =>
    obtain ⟨hcls, hret⟩ : nnn ≠ 0x0E0#12 ∧ nnn ≠ 0x0EE#12 := by simpa [Instr.wellFormed] using hwf
    simp only [encode, decode, decodeFamily0, fieldF_wordA, fieldNNN_wordA, if_neg hcls, if_neg hret]
  | jp | call | ldI | jpV0 => simp only [encode, decode, fieldF_wordA, fieldNNN_wordA]
  | seImm | sneImm | ldImm | addImm | rnd =>
    simp only [encode, decode, fieldF_wordXI, fieldX_wordXI, fieldNN_wordXI]
  | seReg | sneReg =>
    simp only [encode, decode, decodeXY0, fieldF_wordXYN, fieldX_wordXYN, fieldY_wordXYN, fieldN_wordXYN, if_true]
  | ldReg | orReg | andReg | xorReg | addReg | subReg | shr | subnReg | shl =>
    simp only [encode, decode, decodeFamily8, fieldF_wordXYN, fieldX_wordXYN, fieldY_wordXYN, fieldN_wordXYN]
  | drw => simp only [encode, decode, fieldF_wordXYN, fieldX_wordXYN, fieldY_wordXYN, fieldN_wordXYN]
  | skp | sknp => simp only [encode, decode, decodeFamilyE, fieldF_wordXI, fieldX_wordXI, fieldNN_wordXI]
  | ldVxDt | ldVxK | ldDtVx | ldStVx | addI | ldF | ldB | storeRegs | loadRegs =>
    rw [encode, decode_of_fieldF_eq_F (fieldF_wordXI _ _ _)]
    simp only [decodeFamilyF, fieldX_wordXI, fieldNN_wordXI]

/-! ### Decode, then encode: a word from its own fields -/

theorem wordA_of_fieldF {op : Word} {f : BitVec 4} (hf : fieldF op = f) : wordA f (fieldNNN op) = op := by
  subst hf
  apply BitVec.eq_of_toNat_eq
  rw [wordA_toNat, fieldF_toNat, fieldNNN_toNat]
  omega

theorem wordXI_of_fields {op : Word} {f : BitVec 4} {nn : Byte} (hf : fieldF op = f) (hnn : fieldNN op = nn) :
    wordXI f (fieldX op) nn = op := by
  subst hf hnn
  apply BitVec.eq_of_toNat_eq
  rw [wordXI_toNat, fieldF_toNat, fieldX_val, fieldNN_toNat]
  omega

theorem wordXYN_of_fields {op : Word} {f n : BitVec 4} (hf : fieldF op = f) (hn : fieldN op = n) :
    wordXYN f (fieldX op) (fieldY op) n = op := by
  subst hf hn
  apply BitVec.eq_of_toNat_eq
  rw [wordXYN_toNat, fieldF_toNat, fieldX_val, fieldY_val, fieldN_toNat]
  omega

/-- Clearing bits 7 to 4 of a word clears its Y field. -/
theorem wordXYN_and_clear_y (f : BitVec 4) (x y : Reg) (n : BitVec 4) :
    wordXYN f x y n &&& 0xFF0F#16 = wordXYN f x 0 n := by
  have hmask : 0xFF0F#16 = (BitVec.allOnes 4 ++ (BitVec.allOnes 4 ++ (0#4 ++ BitVec.allOnes 4)) :
      BitVec (4 + (4 + (4 + 4)))) := by decide
  rw [hmask]
  refine (BitVec.and_append (x₁ := f)).trans ?_
  simp only [BitVec.and_append, BitVec.and_zero, BitVec.and_allOnes]
  rfl

/-- The encoder gives the decoded word back, a shift's with the Y field at 0. -/
def EncodesTo (i : Instr) (op : Word) : Prop :=
  encode i = op ∨ ((∃ x, i = .shr x ∨ i = .shl x) ∧ encode i = op &&& 0xFF0F#16)

theorem encode_of_decodeXY0 {op : Word} {i : Instr} {f : BitVec 4} {mk : Reg → Reg → Instr}
    (hmk : ∀ x y, encode (mk x y) = wordXYN f x y 0x0#4) (hf : fieldF op = f) (h : decodeXY0 op mk = .ok i) :
    encode i = op := by
  unfold decodeXY0 at h
  split at h
  · next hn =>
    cases h
    rw [hmk, wordXYN_of_fields hf hn]
  · cases h

theorem encodesTo_of_decodeFamily8 {op : Word} {i : Instr} (hf : fieldF op = 0x8#4) (h : decodeFamily8 op = .ok i) :
    EncodesTo i op := by
  have hshift {n : BitVec 4} (hn : fieldN op = n) : wordXYN 0x8#4 (fieldX op) 0 n = op &&& 0xFF0F#16 := by
    rw [← wordXYN_and_clear_y _ _ (fieldY op), wordXYN_of_fields hf hn]
  unfold decodeFamily8 at h
  split at h <;> cases h
  case h_7 hn => exact .inr ⟨⟨_, .inl rfl⟩, hshift hn⟩
  case h_9 hn => exact .inr ⟨⟨_, .inr rfl⟩, hshift hn⟩
  all_goals exact .inl (wordXYN_of_fields hf ‹fieldN op = _›)

theorem encode_of_decodeFamilyE {op : Word} {i : Instr} (hf : fieldF op = 0xE#4) (h : decodeFamilyE op = .ok i) :
    encode i = op := by
  unfold decodeFamilyE at h
  split at h <;> cases h
  all_goals exact wordXI_of_fields hf ‹fieldNN op = _›

theorem encode_of_decodeFamilyF {op : Word} {i : Instr} (hf : fieldF op = 0xF#4) (h : decodeFamilyF op = .ok i) :
    encode i = op := by
  unfold decodeFamilyF at h
  split at h <;> cases h
  all_goals exact wordXI_of_fields hf ‹fieldNN op = _›

theorem encodesTo_of_decode {op : Word} {i : Instr} (h : decode op = .ok i) : EncodesTo i op := by
  unfold decode at h
  split at h
  case h_1 hf =>
    cases h
    refine .inl ?_
    unfold decodeFamily0
    split
    · next hn => rw [encode, ← wordA_of_fieldF hf, hn]; rfl
    split
    · next hn => rw [encode, ← wordA_of_fieldF hf, hn]; rfl
    · exact wordA_of_fieldF hf
  case h_6 hf => exact .inl (encode_of_decodeXY0 (fun _ _ => rfl) hf h)
  case h_9 hf => exact encodesTo_of_decodeFamily8 hf h
  case h_10 hf => exact .inl (encode_of_decodeXY0 (fun _ _ => rfl) hf h)
  case h_15 hf => exact .inl (encode_of_decodeFamilyE hf h)
  case h_16 =>
    have hf : fieldF op = 0xF#4 := by
      simp only [imp_false] at *
      bv_omega
    exact .inl (encode_of_decodeFamilyF hf h)
  case h_2 hf | h_3 hf | h_11 hf | h_12 hf =>
    cases h
    exact .inl (wordA_of_fieldF hf)
  case h_14 hf =>
    cases h
    exact .inl (wordXYN_of_fields hf rfl)
  all_goals
    cases h
    exact .inl (wordXI_of_fields ‹fieldF op = _› rfl)

/-- SYS is encoded without loss, and the words of SYS 0E0 and SYS 0EE decode to CLS and RET. -/
theorem wellFormed_of_decode {op : Word} {i : Instr} (h : decode op = .ok i) : i.wellFormed = true := by
  cases i with
  | sys nnn =>
    obtain henc | ⟨⟨_, hx | hx⟩, -⟩ := encodesTo_of_decode h
    · rw [← henc] at h
      have hcls : nnn ≠ 0x0E0#12 := by
        rintro rfl
        exact absurd h (by decide)
      have hret : nnn ≠ 0x0EE#12 := by
        rintro rfl
        exact absurd h (by decide)
      simp [Instr.wellFormed, hcls, hret]
    · cases hx
    · cases hx
  | _ => rfl

open Laws.EncodingMatchesRow in
/-- Every encoded word has its row's fixed bits, by format. -/
theorem encode_and_rowMask (i : Instr) : encode i &&& rowMask i = rowMatch i := by
  cases i with
  | cls | ret => rfl
  | sys | jp | call | ldI | jpV0 => exact formatA _ _
  | seImm | sneImm | ldImm | addImm | rnd => exact (formatXI _ _ _ 0#8).trans (by rw [BitVec.and_zero]; rfl)
  | drw => exact (formatXYN _ _ _ _ 0#4).trans (by rw [BitVec.and_zero]; rfl)
  | seReg | ldReg | orReg | andReg | xorReg | addReg | subReg | shr | subnReg | shl | sneReg =>
    exact formatXYN _ _ _ _ 0xF#4
  | skp | sknp | ldVxDt | ldVxK | ldDtVx | ldStVx | addI | ldF | ldB | storeRegs | loadRegs =>
    exact formatXI _ _ _ 0xFF#8

/-- The Y field that a shift ignores is outside its row's mask. -/
theorem clear_y_and_rowMask_shift (op : Word) (x : Reg) {i : Instr} (hi : i = .shr x ∨ i = .shl x) :
    (op &&& 0xFF0F#16) &&& rowMask i = op &&& rowMask i := by
  have hmask : rowMask i = 0xF00F#16 := by obtain rfl | rfl := hi <;> rfl
  rw [hmask, BitVec.and_assoc, show 0xFF0F#16 &&& 0xF00F#16 = 0xF00F#16 by decide]

/-- Settles O3: the decoded instruction encodes to the word, or for a shift to the word with its Y field at 0; the
fixed bits are those of the encoded word. -/
theorem decodedWordMatchesItsRow : Obligations.DecodedWordMatchesItsRow := by
  intro op i h
  have henc := encodesTo_of_decode h
  refine ⟨wellFormed_of_decode h, ?_, henc⟩
  obtain henc | ⟨⟨x, hx⟩, henc⟩ := henc
  · rw [← henc, encode_and_rowMask]
  · rw [← clear_y_and_rowMask_shift op x hx, ← henc, encode_and_rowMask]

/-! ### Unknown words (30_encoding.md R87) -/

theorem decodeXY0_eq_error_iff (op : Word) (mk : Reg → Reg → Instr) :
    decodeXY0 op mk = .error (.unknownOpcode op) ↔ op.toNat % 16 ≠ 0 := by
  rw [← fieldN_toNat, decodeXY0]
  split
  · next hn => simp [hn]
  · next hn =>
    simp only [true_iff]
    bv_omega

theorem decodeFamily8_eq_error_iff (op : Word) : decodeFamily8 op = .error (.unknownOpcode op) ↔
    op.toNat % 16 ∈ [8, 9, 10, 11, 12, 13, 15] := by
  rw [← fieldN_toNat, decodeFamily8]
  split
  case h_10 =>
    simp only [imp_false, true_iff, List.mem_cons, List.not_mem_nil, or_false] at *
    bv_omega
  all_goals simp [*]

theorem decodeFamilyE_eq_error_iff (op : Word) : decodeFamilyE op = .error (.unknownOpcode op) ↔
    op.toNat % 256 ∉ [0x9E, 0xA1] := by
  rw [← fieldNN_toNat, decodeFamilyE]
  split
  case h_3 =>
    simp only [imp_false, true_iff, List.mem_cons, List.not_mem_nil, or_false] at *
    bv_omega
  all_goals simp [*]

theorem decodeFamilyF_eq_error_iff (op : Word) : decodeFamilyF op = .error (.unknownOpcode op) ↔
    op.toNat % 256 ∉ [0x07, 0x0A, 0x15, 0x18, 0x1E, 0x29, 0x33, 0x55, 0x65] := by
  rw [← fieldNN_toNat, decodeFamilyF]
  split
  case h_10 =>
    simp only [imp_false, true_iff, List.mem_cons, List.not_mem_nil, or_false] at *
    bv_omega
  all_goals simp [*]

/-- Settles O4, family by family: four families have unknown words, and for each the second decode level says which. -/
theorem unknownWordsAreExactlyTheTable : Obligations.UnknownWordsAreExactlyTheTable := by
  intro op
  have hF := fieldF_toNat op
  unfold decode
  split
  case h_6 hf | h_10 hf =>
    rw [hf] at hF
    simp [decodeXY0_eq_error_iff, ← hF]
  case h_9 hf =>
    rw [hf] at hF
    simp [decodeFamily8_eq_error_iff, ← hF]
  case h_15 hf =>
    rw [hf] at hF
    simp [decodeFamilyE_eq_error_iff, ← hF]
  case h_16 =>
    have hf : fieldF op = 0xF#4 := by
      simp only [imp_false] at *
      bv_omega
    rw [hf] at hF
    simp [decodeFamilyF_eq_error_iff, ← hF]
  all_goals
    rw [‹fieldF op = _›] at hF
    simp [← hF]

/-! ### At most one row (30_encoding.md R84 (2)) -/

/-- Where a mask has all bits of a field, the masked word has the field of the word. -/
theorem extractLsb'_of_and_eq {op m w : Word} (h : op &&& m = w) {a n : Nat}
    (hm : m.extractLsb' a n = BitVec.allOnes n) : op.extractLsb' a n = w.extractLsb' a n := by
  rw [← h, BitVec.extractLsb'_and, hm, BitVec.and_allOnes]

theorem fieldF_rowMask (i : Instr) : fieldF (rowMask i) = BitVec.allOnes 4 := by
  unfold rowMask
  split <;> decide

theorem fieldN_of_and_F00F {op w : Word} (h : op &&& 0xF00F#16 = w) : fieldN op = w.extractLsb' 0 4 :=
  extractLsb'_of_and_eq h (by decide)

theorem fieldNN_of_and_F0FF {op w : Word} (h : op &&& 0xF0FF#16 = w) : fieldNN op = w.extractLsb' 0 8 :=
  extractLsb'_of_and_eq h (by decide)

/-- The mask and match of the row that the decoder reads from a word. -/
def decodedRow (op : Word) : Except DecodeError (Word × Word) := (decode op).map fun i => (rowMask i, rowMatch i)

theorem decodedRow_of_decode {op : Word} {i : Instr} (h : decode op = .ok i) :
    decodedRow op = .ok (rowMask i, rowMatch i) := by
  rw [decodedRow, h]
  rfl

/-- A word with the fixed bits of a row, CLS and RET taken out, decodes to an instruction of that row. -/
theorem decodedRow_of_row {op : Word} {i : Instr} (hcls : op ≠ 0x00E0#16) (hret : op ≠ 0x00EE#16)
    (h : op &&& rowMask i = rowMatch i) : decodedRow op = .ok (rowMask i, rowMatch i) := by
  have hF : fieldF op = (rowMatch i).extractLsb' 12 4 := extractLsb'_of_and_eq h (fieldF_rowMask i)
  cases i with
  | cls => exact absurd ((BitVec.and_allOnes (x := op)).symm.trans h) hcls
  | ret => exact absurd ((BitVec.and_allOnes (x := op)).symm.trans h) hret
  | sys nnn =>
    have hF0 : fieldF op = 0x0#4 := by simp [hF, rowMatch]
    have hnotCls : fieldNNN op ≠ 0x0E0#12 := fun hn => hcls (by rw [← wordA_of_fieldF hF0, hn]; decide)
    have hnotRet : fieldNNN op ≠ 0x0EE#12 := fun hn => hret (by rw [← wordA_of_fieldF hF0, hn]; decide)
    exact decodedRow_of_decode (i := .sys (fieldNNN op)) (by simp [decode, decodeFamily0, hF0, hnotCls, hnotRet])
  | jp | call | seImm | sneImm | ldImm | addImm | ldI | jpV0 | rnd | drw =>
    simp [decodedRow, decode, hF, rowMatch, rowMask, Except.map]
  | seReg | sneReg =>
    simp [decodedRow, decode, decodeXY0, hF, fieldN_of_and_F00F h, rowMatch, rowMask, Except.map]
  | ldReg | orReg | andReg | xorReg | addReg | subReg | shr | subnReg | shl =>
    simp [decodedRow, decode, decodeFamily8, hF, fieldN_of_and_F00F h, rowMatch, rowMask, Except.map]
  | skp | sknp =>
    simp [decodedRow, decode, decodeFamilyE, hF, fieldNN_of_and_F0FF h, rowMatch, rowMask, Except.map]
  | ldVxDt | ldVxK | ldDtVx | ldStVx | addI | ldF | ldB | storeRegs | loadRegs =>
    have hF15 : fieldF op = 0xF#4 := by simp [hF, rowMatch]
    simp [decodedRow, decode_of_fieldF_eq_F hF15, decodeFamilyF, fieldNN_of_and_F0FF h, rowMatch, rowMask, Except.map]

/-- Settles O5: both rows are the row that the decoder reads from the word. -/
theorem atMostOneRowMatches : Obligations.AtMostOneRowMatches := by
  intro op i j hcls hret hi hj
  have hrow := (decodedRow_of_row hcls hret hi).symm.trans (decodedRow_of_row hcls hret hj)
  simpa using hrow

end Sys2Proof.Proofs

/-! PROOFS. What exec answers: for the instructions that can fault, one equation for each side of their check; the
ways a step can go; and what no instruction reads (60_exceptions.md R201 to R203, 40_step_cycle.md R110, R111). -/

namespace Sys2Proof.Proofs

open Sys2Proof.Machine Sys2Proof.Safety

/-! ### The six instructions that can fault (60_exceptions.md R201 to R203) -/

theorem exec_ret_of_sp_ne_zero {s : State} (h : s.sp.val ≠ 0) : exec .ret s = .next
    (({ s with sp := ⟨s.sp.val - 1, by omega⟩ } : State).complete (s.stack[s.sp.val - 1]'(by omega)) .ok) := by
  obtain ⟨_, hpop⟩ | ⟨hsp, -⟩ := s.pop_eq
  · simp only [exec, execRet, hpop, finishGoto]
  · exact absurd hsp h

theorem exec_ret_of_sp_eq_zero {s : State} (h : s.sp.val = 0) : exec .ret s = .fault .stackUnderflow := by
  obtain ⟨hsp, -⟩ | ⟨-, hpop⟩ := s.pop_eq
  · exact absurd h hsp
  · simp only [exec, execRet, hpop, raise]

theorem exec_call_of_sp_lt (nnn : BitVec 12) {s : State} (h : s.sp.val < 16) : exec (.call nnn) s = .next
    (({ s with stack := s.stack.set s.sp.val (s.pc + 2#16) h, sp := ⟨s.sp.val + 1, by omega⟩ } : State).complete
      (zextAddr nnn) .ok) := by
  obtain ⟨_, hpush⟩ | ⟨hsp, -⟩ := s.push_eq (s.pc + 2#16)
  · simp only [exec, execCall, hpush, finishGoto]
  · omega

theorem exec_call_of_sp_eq (nnn : BitVec 12) {s : State} (h : s.sp.val = 16) :
    exec (.call nnn) s = .fault .stackOverflow := by
  obtain ⟨hsp, -⟩ | ⟨-, hpush⟩ := s.push_eq (s.pc + 2#16)
  · omega
  · simp only [exec, execCall, hpush, raise]

theorem exec_ldB_of_lt (x : Reg) {s : State} (h : s.i.toNat + 2 < 4096) : exec (.ldB x) s = .next
    ((s.setMem (s.mem.writeBytes s.i.toNat (bcdDigits (s.getV x)))).complete (s.pc + 2#16) .ok) := by
  obtain ⟨-, hstore⟩ | ⟨hlen, -⟩ := storeAtI_eq (bcdDigits (s.getV x)) s nofun
  · exact hstore
  · rw [bcdDigits_length] at hlen
    omega

theorem exec_ldB_of_ge (x : Reg) {s : State} (h : s.i.toNat + 2 ≥ 4096) :
    exec (.ldB x) s = .fault (.memoryFault (max s.i.toNat 4096)) := by
  obtain ⟨hlen, -⟩ | ⟨-, hstore⟩ := storeAtI_eq (bcdDigits (s.getV x)) s nofun
  · rw [bcdDigits_length] at hlen
    omega
  · exact hstore

theorem regsUpTo_ne_nil (s : State) (x : Reg) : s.regsUpTo x ≠ [] :=
  List.ne_nil_of_length_pos (by rw [State.regsUpTo_length]; omega)

theorem exec_storeRegs_of_lt {x : Reg} {s : State} (h : s.i.toNat + x.val < 4096) : exec (.storeRegs x) s = .next
    ((s.setMem (s.mem.writeBytes s.i.toNat (s.regsUpTo x))).complete (s.pc + 2#16) .ok) := by
  obtain ⟨-, hstore⟩ | ⟨hlen, -⟩ := storeAtI_eq (s.regsUpTo x) s (regsUpTo_ne_nil s x)
  · exact hstore
  · rw [State.regsUpTo_length] at hlen
    omega

theorem exec_storeRegs_of_ge {x : Reg} {s : State} (h : s.i.toNat + x.val ≥ 4096) :
    exec (.storeRegs x) s = .fault (.memoryFault (max s.i.toNat 4096)) := by
  obtain ⟨hlen, -⟩ | ⟨-, hstore⟩ := storeAtI_eq (s.regsUpTo x) s (regsUpTo_ne_nil s x)
  · rw [State.regsUpTo_length] at hlen
    omega
  · exact hstore

theorem exec_loadRegs_of_lt {x : Reg} {s : State} (h : s.i.toNat + x.val < 4096) : exec (.loadRegs x) s = .next
    (({ s with v := setRegs s.v 0 (s.mem.readBytes s.i.toNat (x.val + 1)) } : State).complete (s.pc + 2#16) .ok) := by
  have hcheck := (rangeFault_eq_none s.i.toNat (x.val + 1)).2 (.inr (by omega))
  simp only [exec, execLoadRegs, hcheck, finishNext]

theorem exec_loadRegs_of_ge {x : Reg} {s : State} (h : s.i.toNat + x.val ≥ 4096) :
    exec (.loadRegs x) s = .fault (.memoryFault (max s.i.toNat 4096)) := by
  have hcheck := (rangeFault_eq_some s.i.toNat (x.val + 1) _).2 ⟨by omega, by omega, rfl⟩
  simp only [exec, execLoadRegs, hcheck, raise]

/-- The drawing that DRW Vx, Vy, n makes in a state (44_display.md R172). -/
def drawing (x y : Reg) (n : BitVec 4) (s : State) : Drawing :=
  drawRows (s.getV x).toNat (s.mem.readBytes s.i.toNat n.toNat) (s.getV y).toNat (s.display, false)

theorem exec_drw_of_le (x y : Reg) {n : BitVec 4} {s : State} (h : n.toNat = 0 ∨ s.i.toNat + n.toNat ≤ 4096) :
    exec (.drw x y n) s = .next (((s.setDisplay (drawing x y n s).1).setV VF
      (if (drawing x y n s).2 = true then 1#8 else 0#8)).complete (s.pc + 2#16) .ok) := by
  have hcheck := (rangeFault_eq_none s.i.toNat n.toNat).2 h
  simp only [exec, execDrw, hcheck, finishNext]
  rfl

theorem exec_drw_of_gt (x y : Reg) {n : BitVec 4} {s : State} (h : n.toNat ≠ 0 ∧ s.i.toNat + n.toNat > 4096) :
    exec (.drw x y n) s = .fault (.memoryFault (max s.i.toNat 4096)) := by
  have hcheck := (rangeFault_eq_some s.i.toNat n.toNat _).2 ⟨h.1, h.2, rfl⟩
  simp only [exec, execDrw, hcheck, raise]

theorem exec_ldVxK_of_anyPressed_eq_some (x : Reg) {s : State} {k : Reg} (h : s.anyPressed = some k) :
    exec (.ldVxK x) s =
      .next (((s.setV x (BitVec.ofNat 8 k.val)).setMode .running).complete (s.pc + 2#16) .ok) := by
  simp only [exec, execLdVxK, h, finishNext]
  rfl

/-! ### Complete or fault -/

theorem finishSkipIf_completes (c : Bool) (s : State) : ∃ t, finishSkipIf c s = .next t := ⟨_, finishSkipIf_eq c s⟩

/-- No instruction is refused, and one that faults does so for its cause. -/
theorem exec_completes_or_faults (i : Instr) (s : State) :
    (∃ t, exec i s = .next t) ∨ ∃ f, exec i s = .fault f ∧ FaultCause i s f := by
  cases i with
  | ret =>
    by_cases hsp : s.sp.val = 0
    · exact .inr ⟨_, exec_ret_of_sp_eq_zero hsp, .inl ⟨rfl, hsp, rfl⟩⟩
    · exact .inl ⟨_, exec_ret_of_sp_ne_zero hsp⟩
  | call nnn =>
    by_cases hsp : s.sp.val < 16
    · exact .inl ⟨_, exec_call_of_sp_lt nnn hsp⟩
    · have hfull : s.sp.val = 16 := by omega
      exact .inr ⟨_, exec_call_of_sp_eq nnn hfull, .inr (.inl ⟨⟨nnn, rfl⟩, hfull, rfl⟩)⟩
  | drw x y n =>
    by_cases hn : n.toNat = 0 ∨ s.i.toNat + n.toNat ≤ 4096
    · exact .inl ⟨_, exec_drw_of_le x y hn⟩
    · refine .inr ⟨_, exec_drw_of_gt x y (by omega), .inr (.inr ⟨rfl, .inl ⟨x, y, n, rfl, ?_, ?_⟩⟩)⟩ <;> omega
  | ldB x =>
    by_cases hi : s.i.toNat + 2 < 4096
    · exact .inl ⟨_, exec_ldB_of_lt x hi⟩
    · have hi : s.i.toNat + 2 ≥ 4096 := Nat.le_of_not_lt hi
      exact .inr ⟨_, exec_ldB_of_ge x hi, .inr (.inr ⟨rfl, .inr (.inl ⟨x, rfl, hi⟩)⟩)⟩
  | storeRegs x =>
    by_cases hi : s.i.toNat + x.val < 4096
    · exact .inl ⟨_, exec_storeRegs_of_lt hi⟩
    · have hi : s.i.toNat + x.val ≥ 4096 := Nat.le_of_not_lt hi
      exact .inr ⟨_, exec_storeRegs_of_ge hi, .inr (.inr ⟨rfl, .inr (.inr (.inl ⟨x, rfl, hi⟩))⟩)⟩
  | loadRegs x =>
    by_cases hi : s.i.toNat + x.val < 4096
    · exact .inl ⟨_, exec_loadRegs_of_lt hi⟩
    · have hi : s.i.toNat + x.val ≥ 4096 := Nat.le_of_not_lt hi
      exact .inr ⟨_, exec_loadRegs_of_ge hi, .inr (.inr ⟨rfl, .inr (.inr (.inr ⟨x, rfl, hi⟩))⟩)⟩
  | seImm | sneImm | seReg | sneReg | skp | sknp => exact .inl (finishSkipIf_completes _ s)
  | ldVxK x =>
    cases hk : s.anyPressed with
    | none => exact .inl ⟨_, exec_ldVxK_of_anyPressed_eq_none x hk⟩
    | some k => exact .inl ⟨_, exec_ldVxK_of_anyPressed_eq_some x hk⟩
  | _ => exact .inl ⟨_, rfl⟩

/-- Each listed cause makes the instruction fault. -/
theorem exec_of_faultCause {i : Instr} {s : State} {f : Fault} (h : FaultCause i s f) : exec i s = .fault f := by
  obtain ⟨rfl, hsp, rfl⟩ | ⟨⟨nnn, rfl⟩, hsp, rfl⟩ | ⟨rfl, hrange⟩ := h
  · exact exec_ret_of_sp_eq_zero hsp
  · exact exec_call_of_sp_eq nnn hsp
  · obtain ⟨x, y, n, rfl, hn, hi⟩ | ⟨x, rfl, hi⟩ | ⟨x, rfl, hi⟩ | ⟨x, rfl, hi⟩ := hrange
    · exact exec_drw_of_gt x y (by omega)
    · exact exec_ldB_of_ge x hi
    · exact exec_storeRegs_of_ge hi
    · exact exec_loadRegs_of_ge hi

theorem exec_eq_fault_iff (i : Instr) (s : State) (f : Fault) : exec i s = .fault f ↔ FaultCause i s f := by
  refine ⟨fun h => ?_, exec_of_faultCause⟩
  obtain ⟨t, ht⟩ | ⟨g, hg, hcause⟩ := exec_completes_or_faults i s
  · rw [ht] at h
    cases h
  · rw [hg] at h
    cases h
    exact hcause

/-! ### The step by what was fetched (40_step_cycle.md R100) -/

theorem step_of_decode {s : State} {op : Word} {i : Instr} (hf : fetch s = .ok op) (hd : decode op = .ok i) :
    step s = exec i s := by
  simp only [step, hf, hd]

/-- The three ways a step can go. -/
theorem step_cases (s : State) :
    (4095 ≤ s.pc.toNat ∧ step s = .fault (.memoryFault (max s.pc.toNat 4096))) ∨
    (∃ op e, fetch s = .ok op ∧ decode op = .error e ∧ step s = .next (s.complete (s.pc + 2#16) .unknownOpcode)) ∨
    ∃ op i, fetch s = .ok op ∧ decode op = .ok i ∧ step s = exec i s := by
  by_cases hpc : 4095 ≤ s.pc.toNat
  · exact .inl ⟨hpc, step_of_fetch_error (fetch_of_pc_ge hpc)⟩
  · have hf := fetch_of_pc_le (s := s) (by omega)
    generalize composeWord _ _ = op at hf
    cases hd : decode op with
    | error e => exact .inr (.inl ⟨op, e, hf, hd, step_of_decode_error hf hd⟩)
    | ok i => exact .inr (.inr ⟨op, i, hf, hd, step_of_decode hf hd⟩)

/-- A step that answers a next state is a report of an unknown word or a completed instruction. -/
theorem step_next_cases {s t : State} (h : step s = .next t) :
    (∃ op e, fetch s = .ok op ∧ decode op = .error e ∧ t = s.complete (s.pc + 2#16) .unknownOpcode) ∨
    ∃ op i, fetch s = .ok op ∧ decode op = .ok i ∧ exec i s = .next t := by
  obtain ⟨-, hs⟩ | ⟨op, e, hf, hd, hs⟩ | ⟨op, i, hf, hd, hs⟩ := step_cases s
  · rw [hs] at h
    cases h
  · rw [hs] at h
    cases h
    exact .inl ⟨op, e, hf, hd, rfl⟩
  · exact .inr ⟨op, i, hf, hd, hs ▸ h⟩

/-- A fetch that answers a word has both of its bytes below 4096. -/
theorem pc_le_of_fetch {s : State} {op : Word} (hf : fetch s = .ok op) : s.pc.toNat ≤ 4094 := by
  by_contra hpc
  rw [fetch_of_pc_ge (by omega)] at hf
  cases hf

/-- Settles O7: the two bytes at PC are what the fetch composes. -/
theorem stepRunsTheDecodedInstruction : Obligations.StepRunsTheDecodedInstruction :=
  fun _ _ hpc hd => step_of_decode (fetch_of_pc_le hpc) hd

/-- Settles O8: both are a completion with the report in the result. -/
theorem unknownOpcodeIsReportedAndSteppedOver : Obligations.UnknownOpcodeIsReportedAndSteppedOver :=
  ⟨fun s _ _ hf hd => ⟨_, step_of_decode_error hf hd, rfl, ordinaryStep_complete s _⟩,
    fun s _ => ⟨_, rfl, rfl, ordinaryStep_complete s _⟩⟩

/-- Settles O9: a step is a fault of the fetch, a report, or an instruction, and none of them is refused. -/
theorem everyInstructionCompletesOrFaults : Obligations.EveryInstructionCompletesOrFaults := by
  have hexec : ∀ (i : Instr) (s : State), (∃ t, exec i s = .next t) ∨ ∃ f, exec i s = .fault f := fun i s =>
    (exec_completes_or_faults i s).imp_right fun ⟨f, hf, _⟩ => ⟨f, hf⟩
  refine ⟨hexec, fun s => ?_⟩
  obtain ⟨-, h⟩ | ⟨_, _, -, -, h⟩ | ⟨_, i, -, -, h⟩ := step_cases s
  · exact .inr ⟨_, h⟩
  · exact .inl ⟨_, h⟩
  · rw [h]
    exact hexec i s

theorem step_eq_fault_iff (s : State) (f : Fault) : step s = .fault f ↔
    (s.pc.toNat ≥ 4095 ∧ f = .memoryFault (max s.pc.toNat 4096)) ∨
    ∃ op i, fetch s = .ok op ∧ decode op = .ok i ∧ FaultCause i s f := by
  constructor
  · intro h
    obtain ⟨hpc, hs⟩ | ⟨_, _, -, -, hs⟩ | ⟨op, i, hf, hd, hs⟩ := step_cases s
    · rw [hs] at h
      cases h
      exact .inl ⟨hpc, rfl⟩
    · rw [hs] at h
      cases h
    · exact .inr ⟨op, i, hf, hd, (exec_eq_fault_iff i s f).1 (hs ▸ h)⟩
  · rintro (⟨hpc, rfl⟩ | ⟨op, i, hf, hd, hcause⟩)
    · exact step_of_fetch_error (fetch_of_pc_ge hpc)
    · rw [step_of_decode hf hd, exec_of_faultCause hcause]

/-- Settles O10: the causes of an instruction and of a step, and the step event of a fault. -/
theorem faultsHaveExactlyTheListedCauses : Obligations.FaultsHaveExactlyTheListedCauses :=
  ⟨exec_eq_fault_iff, step_eq_fault_iff, fun _ _ => stepEvent_of_fault⟩

/-! ### What a step does not read -/

/-- No instruction reads the result field: each writes it, or faults. -/
theorem exec_setResult (i : Instr) (s : State) (r : StepResult) : exec i { s with result := r } = exec i s := by
  cases i with
  | ret =>
    by_cases hsp : s.sp.val = 0
    · rw [exec_ret_of_sp_eq_zero hsp]
      exact exec_ret_of_sp_eq_zero (s := { s with result := r }) hsp
    · rw [exec_ret_of_sp_ne_zero hsp]
      exact exec_ret_of_sp_ne_zero (s := { s with result := r }) hsp
  | call nnn =>
    by_cases hsp : s.sp.val < 16
    · rw [exec_call_of_sp_lt nnn hsp]
      exact exec_call_of_sp_lt nnn (s := { s with result := r }) hsp
    · have hfull : s.sp.val = 16 := by omega
      rw [exec_call_of_sp_eq nnn hfull]
      exact exec_call_of_sp_eq nnn (s := { s with result := r }) hfull
  | _ => rfl

/-- Settles O12: the fetch reads memory and PC alone, and no instruction reads the result. -/
theorem stepDoesNotReadTheResult : Obligations.StepDoesNotReadTheResult := by
  intro s r
  obtain ⟨hpc, h⟩ | ⟨op, e, hf, hd, h⟩ | ⟨op, i, hf, hd, h⟩ := step_cases s
  · rw [h]
    exact step_of_fetch_error (fetch_of_pc_ge (s := { s with result := r }) hpc)
  · rw [h]
    exact step_of_decode_error (s := { s with result := r }) hf hd
  · rw [h, ← exec_setResult i s r]
    exact step_of_decode (s := { s with result := r }) hf hd

/-- Settles O11, by induction on the number of steps: each further one starts from the same state but for the result. -/
theorem faultRepeatsUntilReset : Obligations.FaultRepeatsUntilReset := by
  intro s f hs n
  have hagain : step { s with result := f.result } = .fault f := (stepDoesNotReadTheResult s f.result).trans hs
  have hstate : stepEvent^[n + 1] s = { s with result := f.result } := by
    induction n with
    | zero => exact stepEvent_of_fault hs
    | succ n ih => rw [Function.iterate_succ_apply', ih, stepEvent_of_fault hagain]
  exact ⟨hstate, hstate ▸ hagain⟩

theorem finishSkipIf_setRandInput (c : Bool) (s : State) (rs : List Byte) (d : Nat) :
    finishSkipIf c { s with rands := rs, draws := d } = withRandInput rs d (finishSkipIf c s) := by
  cases c <;> rfl

theorem storeAtI_setRandInput (bs : List Byte) (s : State) (rs : List Byte) (d : Nat) :
    storeAtI bs { s with rands := rs, draws := d } = withRandInput rs d (storeAtI bs s) := by
  dsimp only [storeAtI]
  cases rangeFault s.i.toNat bs.length <;> rfl

/-- Settles O13, by instruction: its branches are chosen without the random input, and each keeps it. -/
theorem onlyRandomReadsTheRandomInput : Obligations.OnlyRandomReadsTheRandomInput := by
  intro i s rs d hi
  cases i with
  | rnd x nn => exact absurd rfl (hi x nn)
  | seImm | sneImm | seReg | sneReg | skp | sknp => exact finishSkipIf_setRandInput _ s rs d
  | ldB x => exact storeAtI_setRandInput (bcdDigits (s.getV x)) s rs d
  | storeRegs x => exact storeAtI_setRandInput (s.regsUpTo x) s rs d
  | ret =>
    by_cases hsp : s.sp.val = 0
    · rw [exec_ret_of_sp_eq_zero hsp]
      exact exec_ret_of_sp_eq_zero (s := { s with rands := rs, draws := d }) hsp
    · rw [exec_ret_of_sp_ne_zero hsp]
      exact exec_ret_of_sp_ne_zero (s := { s with rands := rs, draws := d }) hsp
  | call nnn =>
    by_cases hsp : s.sp.val < 16
    · rw [exec_call_of_sp_lt nnn hsp]
      exact exec_call_of_sp_lt nnn (s := { s with rands := rs, draws := d }) hsp
    · have hfull : s.sp.val = 16 := by omega
      rw [exec_call_of_sp_eq nnn hfull]
      exact exec_call_of_sp_eq nnn (s := { s with rands := rs, draws := d }) hfull
  | loadRegs x =>
    dsimp only [exec, execLoadRegs]
    cases rangeFault s.i.toNat (x.val + 1) <;> rfl
  | drw x y n =>
    dsimp only [exec, execDrw]
    cases rangeFault s.i.toNat n.toNat <;> rfl
  | ldVxK x =>
    dsimp only [exec, execLdVxK]
    show (match s.anyPressed with | none => _ | some k => _) = _
    cases s.anyPressed <;> rfl
  | _ => rfl

end Sys2Proof.Proofs

/-! PROOFS. Which instruction writes what: the frame of every instruction that completes, one lemma per element of the
state, and the invariants that every step keeps. -/

namespace Sys2Proof.Proofs

open Sys2Proof.Machine Sys2Proof.Safety

/-! ### Memory -/

/-- An instruction that completes leaves memory as it was, or is a store that has written a range inside memory. -/
theorem exec_mem_cases {i : Instr} {s t : State} (h : exec i s = .next t) :
    t.mem = s.mem ∨ (∃ x, i = .ldB x ∨ i = .storeRegs x) ∧
      ∃ bs : List Byte, s.i.toNat + bs.length ≤ 4096 ∧ t.mem = s.mem.writeBytes s.i.toNat bs := by
  cases exec_next h with
  | store _ bs hi hr =>
    refine .inr ⟨?_, bs, hr, rfl⟩
    obtain ⟨x, rfl, -⟩ | ⟨x, rfl, -⟩ := hi
    · exact ⟨x, .inl rfl⟩
    · exact ⟨x, .inr rfl⟩
  | _ => exact .inl rfl

/-- Settles O44: only the stores write a range. -/
theorem onlyStoresChangeMemory : Obligations.OnlyStoresChangeMemory := by
  intro i s t h hi a
  obtain hmem | ⟨⟨x, hx⟩, -⟩ := exec_mem_cases h
  · rw [hmem]
  · obtain ⟨hldB, hstore⟩ := hi x
    exact absurd hx (by simp [hldB, hstore])

theorem exec_keeps_memoryCanonical {i : Instr} {s t : State} (hs : MemoryCanonical s) (h : exec i s = .next t) :
    MemoryCanonical t := by
  obtain ⟨hwf, hrange⟩ := hs
  unfold MemoryCanonical
  obtain hmem | ⟨-, bs, hbs, hmem⟩ := exec_mem_cases h
  · exact hmem ▸ ⟨hwf, hrange⟩
  · exact hmem ▸ ⟨Memory.wf_writeBytes bs _ _ hwf, Memory.inRange_writeBytes bs _ _ hbs hrange⟩

/-- Settles O51: a write inside the address space keeps the form, and nothing else touches memory. -/
theorem stepKeepsMemoryCanonical : Obligations.StepKeepsMemoryCanonical := by
  intro s t hs h
  obtain ⟨_, _, -, -, rfl⟩ | ⟨_, _, -, -, hexec⟩ := step_next_cases h
  · exact hs
  · exact exec_keeps_memoryCanonical hs hexec

/-! ### PC and the call stack -/

theorem word_add_toNat_of_le {p : Word} (hp : p.toNat ≤ 4094) {k : Nat} (hk : k ≤ 4) :
    (p + BitVec.ofNat 16 k).toNat = p.toNat + k := by
  rw [BitVec.toNat_add, BitVec.toNat_ofNat]
  omega

/-- From a PC that can fetch, no instruction that completes leaves the bounds of 10_state.md R27. -/
theorem exec_keeps_addressesBounded {i : Instr} {s t : State} (hs : AddressesBounded s) (hpc : s.pc.toNat ≤ 4094)
    (h : exec i s = .next t) : AddressesBounded t := by
  obtain ⟨-, hstack⟩ := hs
  have h2 := word_add_toNat_of_le hpc (k := 2) (by omega)
  have h4 := word_add_toNat_of_le hpc (k := 4) (by omega)
  have hskip (c : Prop) [Decidable c] : (if c then s.pc + 4#16 else s.pc + 2#16).toNat ≤ 0x10FE := by
    split <;> omega
  cases exec_next h with
  | ret hsp => exact ⟨(hstack _ (by omega)).trans (by decide), hstack⟩
  | jp nnn => exact ⟨by rw [State.complete_pc, zextAddr_toNat]; omega, hstack⟩
  | jpV0 nnn => exact ⟨by rw [State.complete_pc, zextAddr_add_zextByte_toNat]; omega, hstack⟩
  | call nnn hsp =>
    refine ⟨by rw [State.complete_pc, zextAddr_toNat]; omega, fun k hk => ?_⟩
    rw [State.complete_stack, Vector.getElem_set]
    split
    · omega
    · exact hstack k hk
  | seImm | sneImm | seReg | sneReg | skp | sknp => exact ⟨hskip _, hstack⟩
  | keyHeld => exact ⟨by show s.pc.toNat ≤ _; omega, hstack⟩
  | _ => exact ⟨by show (s.pc + 2#16).toNat ≤ _; omega, hstack⟩

/-- Settles O52: the fetch bounds PC before the step, and each target and saved address is within its bound. -/
theorem stepKeepsAddressesBounded : Obligations.StepKeepsAddressesBounded := by
  intro s t hs h
  obtain ⟨_, _, hf, -, rfl⟩ | ⟨_, _, hf, -, hexec⟩ := step_next_cases h
  · obtain ⟨-, hstack⟩ := hs
    have hpc := pc_le_of_fetch hf
    have hnext := word_add_toNat_of_le hpc (k := 2) (by omega)
    exact ⟨by rw [State.complete_pc]; omega, hstack⟩
  · exact exec_keeps_addressesBounded hs (pc_le_of_fetch hf) hexec

/-- Settles O46: every other shape of effect leaves the stack's two elements. -/
theorem onlyCallAndReturnChangeTheStack : Obligations.OnlyCallAndReturnChangeTheStack := by
  intro i s t h hret hcall
  cases exec_next h with
  | ret => exact absurd rfl hret
  | call nnn => exact absurd rfl (hcall nnn)
  | _ => exact ⟨rfl, rfl⟩

/-! ### I, the screen, the keys and the mode -/

/-- Settles O45: a write of I is one of the three. -/
theorem onlyIndexInstructionsChangeI : Obligations.OnlyIndexInstructionsChangeI := by
  intro i s t h hldI hx
  cases exec_next h with
  | setI _ w hi =>
    obtain ⟨nnn, rfl, -⟩ | ⟨x, rfl, -⟩ | ⟨x, rfl, -⟩ := hi
    · exact absurd rfl (hldI nnn)
    · exact absurd rfl (hx x).1
    · exact absurd rfl (hx x).2
  | _ => rfl

theorem exec_keeps_screen {i : Instr} {s t : State} (h : exec i s = .next t) (hcls : i ≠ .cls)
    (hdrw : ∀ x y n, i ≠ .drw x y n) : t.display = s.display ∧ t.dirty = s.dirty := by
  cases exec_next h with
  | cls => exact absurd rfl hcls
  | drw x y n => exact absurd rfl (hdrw x y n)
  | _ => exact ⟨rfl, rfl⟩

theorem exec_drw_next {x y : Reg} {n : BitVec 4} {s t : State} (h : exec (.drw x y n) s = .next t) :
    (n.toNat = 0 ∨ s.i.toNat + n.toNat ≤ 4096) ∧ t = ((s.setDisplay (drawing x y n s).1).setV VF
      (if (drawing x y n s).2 = true then 1#8 else 0#8)).complete (s.pc + 2#16) .ok := by
  by_cases hn : n.toNat = 0 ∨ s.i.toNat + n.toNat ≤ 4096
  · rw [exec_drw_of_le x y hn] at h
    cases h
    exact ⟨hn, rfl⟩
  · rw [exec_drw_of_gt x y (by omega)] at h
    cases h

theorem exec_raises_dirty {i : Instr} {s t : State} (h : exec i s = .next t)
    (hi : i = .cls ∨ ∃ x y n, i = .drw x y n) : t.dirty = true := by
  obtain rfl | ⟨x, y, n, rfl⟩ := hi
  · cases h
    rfl
  · obtain ⟨-, rfl⟩ := exec_drw_next h
    rfl

/-- Settles O47, clause by clause. -/
theorem onlyClearAndDrawTouchTheScreen : Obligations.OnlyClearAndDrawTouchTheScreen :=
  fun _ _ _ h => ⟨fun ⟨hcls, hdrw⟩ => exec_keeps_screen h hcls hdrw, exec_raises_dirty h⟩

theorem exec_keeps_keys {i : Instr} {s t : State} (h : exec i s = .next t) : t.keys = s.keys := by
  cases exec_next h <;> rfl

theorem exec_keeps_mode {i : Instr} {s t : State} (h : exec i s = .next t) (hi : ∀ x, i ≠ .ldVxK x) :
    t.mode = s.mode := by
  cases exec_next h with
  | keyHeld x | keyTaken x => exact absurd rfl (hi x)
  | _ => rfl

/-- Settles O48, clause by clause. -/
theorem keysAreReadOnlyAndModeIsTheWaits : Obligations.KeysAreReadOnlyAndModeIsTheWaits :=
  fun _ _ _ h => ⟨exec_keeps_keys h, exec_keeps_mode h⟩

/-! ### The wait for a key -/

/-- An FX0A that completes leaves PC and memory where a wait was held, and mode Running where a key was taken. -/
theorem exec_ldVxK_holds_or_runs {x : Reg} {s t : State} (h : exec (.ldVxK x) s = .next t) :
    fetch t = fetch s ∨ t.mode = .running := by
  cases exec_next h with
  | keyHeld => exact .inl rfl
  | keyTaken => exact .inr rfl
  | setV _ _ _ hi | setVFlag _ _ _ _ hi | setI _ _ hi | store _ _ hi => simp at hi

/-- Settles O53: a machine that waits has fetched an FX0A, which is held at its own word or ends the wait. -/
theorem stepKeepsWaitAtKeyWait : Obligations.StepKeepsWaitAtKeyWait := by
  intro s t hs h hmode
  obtain ⟨op, e, hf, hd, rfl⟩ | ⟨op, i, hf, hd, hexec⟩ := step_next_cases h
  · obtain ⟨op', x, hf', hd'⟩ := hs hmode
    cases hf.symm.trans hf'
    cases hd.symm.trans hd'
  · by_cases hi : ∃ x, i = .ldVxK x
    · obtain ⟨x, rfl⟩ := hi
      obtain hfetch | hrun := exec_ldVxK_holds_or_runs hexec
      · exact ⟨op, x, hfetch.trans hf, hd⟩
      · rw [hrun] at hmode
        cases hmode
    · have hkept := exec_keeps_mode hexec (fun x hx => hi ⟨x, hx⟩)
      obtain ⟨op', x, hf', hd'⟩ := hs (hkept ▸ hmode)
      cases hf.symm.trans hf'
      cases hd.symm.trans hd'
      exact absurd ⟨x, rfl⟩ hi

/-! ### The timers -/

theorem exec_ticks_dt {i : Instr} {s t : State} (h : exec i s = .next t) (hk : ∀ x, i ≠ .ldVxK x)
    (hdt : ∀ x, i ≠ .ldDtVx x) : t.dt.toNat = s.dt.toNat - 1 := by
  cases exec_next h with
  | keyHeld x => exact absurd rfl (hk x)
  | ldDtVx x => exact absurd rfl (hdt x)
  | _ => exact tickByte_toNat s.dt

theorem exec_ticks_st {i : Instr} {s t : State} (h : exec i s = .next t) (hk : ∀ x, i ≠ .ldVxK x)
    (hst : ∀ x, i ≠ .ldStVx x) : t.st.toNat = s.st.toNat - 1 := by
  cases exec_next h with
  | keyHeld x => exact absurd rfl (hk x)
  | ldStVx x => exact absurd rfl (hst x)
  | _ => exact tickByte_toNat s.st

/-- Settles O15: the held key wait apart, a completion ticks both timers, after the write of the two that write one. -/
theorem timersTickOncePerCompletedStep : Obligations.TimersTickOncePerCompletedStep := by
  intro i s t h
  cases i with
  | ldVxK x =>
    cases hk : s.anyPressed with
    | none =>
      rw [exec_ldVxK_of_anyPressed_eq_none x hk] at h
      cases h
      exact .inl ⟨⟨x, rfl⟩, (noKey_iff_anyPressed_eq_none s).2 hk, rfl, rfl⟩
    | some k =>
      rw [exec_ldVxK_of_anyPressed_eq_some x hk] at h
      cases h
      have hkey : ¬ NoKey s := by simp [noKey_iff_anyPressed_eq_none, hk]
      exact .inr ⟨fun hx => hkey hx.2, tickByte_toNat s.dt, tickByte_toNat s.st⟩
  | ldDtVx x =>
    refine .inr ⟨nofun, ?_, exec_ticks_st h nofun nofun⟩
    cases h
    exact tickByte_toNat (s.getV x)
  | ldStVx x =>
    refine .inr ⟨nofun, exec_ticks_dt h nofun nofun, ?_⟩
    cases h
    exact tickByte_toNat (s.getV x)
  | _ => exact .inr ⟨nofun, exec_ticks_dt h nofun nofun, exec_ticks_st h nofun nofun⟩

/-! ### Registers and the flag -/

/-- Settles O49: each write of a register is at one that the table lists for the instruction. -/
theorem registersAreWrittenAsTheTableSays : Obligations.RegistersAreWrittenAsTheTableSays := by
  intro i s t r h hr
  cases exec_next h with
  | setV _ x b hi =>
    have hx : mayWriteReg i x := by
      obtain ⟨_, rfl, -⟩ | ⟨_, rfl, -⟩ | ⟨_, rfl, -⟩ | ⟨_, rfl, -⟩ | ⟨_, rfl, -⟩ | ⟨_, rfl, -⟩ | ⟨rfl, -⟩ := hi <;> rfl
    have hrx : r ≠ x := fun hrx => hr (hrx ▸ hx)
    rw [State.getV_complete, State.getV_setV, if_neg hrx]
  | setVFlag _ x b f hi =>
    have hw : ∀ q, q = x ∨ q = VF → mayWriteReg i q := by
      obtain ⟨_, rfl, -⟩ | ⟨_, rfl, -⟩ | ⟨_, rfl, -⟩ | ⟨rfl, -⟩ | ⟨rfl, -⟩ := hi <;> exact fun _ => id
    obtain ⟨hrx, hrf⟩ := not_or.1 (mt (hw r) hr)
    rw [State.getV_complete, State.getV_setVFlag, if_neg hrf, if_neg hrx]
  | rnd x nn => exact (State.getV_setV _ _ _ _).trans (if_neg hr)
  | keyTaken x k => exact (State.getV_setV _ _ _ _).trans (if_neg hr)
  | drw x y n => exact (State.getV_setV _ _ _ _).trans (if_neg hr)
  | loadRegs x =>
    have hlt : ¬ r.val < x.val + 1 := fun hlt => hr (Nat.le_of_lt_succ hlt)
    show (setRegs s.v 0 (s.mem.readBytes s.i.toNat (x.val + 1)))[r.val] = s.v[r.val]
    rw [setRegs_getElem, Memory.readBytes_length, if_neg (by omega)]
  | _ => rfl

theorem flagByte_eq_zero_or_one (c : Bool) : flagByte c = 0#8 ∨ flagByte c = 1#8 := by
  cases c
  · exact .inl rfl
  · exact .inr rfl

/-- Settles O50: the six flags are flag bytes, and VF is one of the registers of the table for every other writer. -/
theorem flagIsWrittenByExactlySixInstructions : Obligations.FlagIsWrittenByExactlySixInstructions := by
  refine fun i s t h => ⟨fun hw => ?_, fun _ hVF => registersAreWrittenAsTheTableSays i s t VF h hVF⟩
  cases i with
  | addReg | subReg | shr | subnReg | shl =>
    cases h
    rw [State.getV_complete, getV_setVFlag_VF]
    exact flagByte_eq_zero_or_one _
  | drw x y n =>
    obtain ⟨-, rfl⟩ := exec_drw_next h
    rw [State.getV_complete, State.getV_setV_self]
    exact flagByte_eq_zero_or_one (drawing x y n s).2
  | _ => cases hw

end Sys2Proof.Proofs

/-! PROOFS. Instructions that write one register or none beside PC: loads, logic, the reversed difference, shifts, the
random byte, call and return, the key skips, the timers and the index register. -/

namespace Sys2Proof.Proofs

open Sys2Proof.Machine Sys2Proof.Safety

/-! ### A completed step that writes one register -/

theorem keepsRegs_setV (s : State) (x : Reg) (b : Byte) : KeepsRegs [x] s (s.setV x b) := by
  intro r hr
  rw [State.getV_setV, if_neg (by simpa using hr)]

theorem ordinaryStep_setV_complete (s : State) (x : Reg) (b : Byte) (p : Word) :
    OrdinaryStep s ((s.setV x b).complete p .ok) p [x] :=
  ordinaryStep_complete_of_keepsRegs (keepsRegs_setV s x b) p

theorem getV_setV_complete (s : State) (x : Reg) (b : Byte) (p : Word) (r : StepResult) :
    ((s.setV x b).complete p r).getV x = b := State.getV_setV_self s x b

/-! ### Loads, logic and the reversed difference (41_arithmetic_logic.md R121 to R130) -/

theorem exec_ldImm (x : Reg) (nn : Byte) (s : State) :
    exec (.ldImm x nn) s = .next ((s.setV x nn).complete (s.pc + 2#16) .ok) := rfl

theorem exec_addImm (x : Reg) (nn : Byte) (s : State) :
    exec (.addImm x nn) s = .next ((s.setV x (s.getV x + nn)).complete (s.pc + 2#16) .ok) := rfl

/-- Settles O16: the byte sum is the sum modulo 256, and one register is written. -/
theorem loadAndAddImmediate : Obligations.LoadAndAddImmediate := by
  refine fun x nn s => ⟨⟨_, exec_ldImm x nn s, getV_setV_complete _ _ _ _ _, ordinaryStep_setV_complete _ _ _ _⟩,
    ⟨_, exec_addImm x nn s, ?_, ordinaryStep_setV_complete _ _ _ _⟩⟩
  rw [getV_setV_complete, BitVec.toNat_add]

/-- Settles O17: one register is written, with the bitwise operation on the values before the step. -/
theorem copyAndLogicOperations : Obligations.CopyAndLogicOperations := by
  refine fun x y s => ⟨⟨_, rfl, getV_setV_complete _ _ _ _ _, ordinaryStep_setV_complete _ _ _ _⟩,
    ⟨_, rfl, ordinaryStep_setV_complete _ _ _ _, fun k => ?_⟩,
    ⟨_, rfl, ordinaryStep_setV_complete _ _ _ _, fun k => ?_⟩,
    ⟨_, rfl, ordinaryStep_setV_complete _ _ _ _, fun k => ?_⟩⟩
  · rw [getV_setV_complete, BitVec.getLsbD_or]
  · rw [getV_setV_complete, BitVec.getLsbD_and]
  · rw [getV_setV_complete, BitVec.getLsbD_xor]

theorem exec_subnReg (x y : Reg) (s : State) : exec (.subnReg x y) s = .next
    ((s.setVFlag x (s.getV y - s.getV x) (notBorrow (s.getV y) (s.getV x))).complete (s.pc + 2#16) .ok) := rfl

/-- Settles O20: as the difference of R128, with the operands reversed. -/
theorem reversedSubtractSetsNotBorrow : Obligations.ReversedSubtractSetsNotBorrow := by
  refine fun x y s => ⟨_, exec_subnReg x y s, fun hx => ?_, ?_, ordinaryStep_setVFlag_complete _ _ _ _ _⟩
  · rw [State.getV_complete, getV_setVFlag_of_ne_VF _ _ _ hx, byte_sub_toNat]
  · rw [State.getV_complete, getV_setVFlag_VF, notBorrow, flagByte_decide]

/-! ### Shifts (41_arithmetic_logic.md R129, R131) -/

theorem exec_shr (x : Reg) (s : State) : exec (.shr x) s = .next
    ((s.setVFlag x (s.getV x >>> 1) (shiftedOutRight (s.getV x))).complete (s.pc + 2#16) .ok) := rfl

theorem exec_shl (x : Reg) (s : State) : exec (.shl x) s = .next
    ((s.setVFlag x (s.getV x <<< 1) (shiftedOutLeft (s.getV x))).complete (s.pc + 2#16) .ok) := rfl

theorem byte_shr_one_toNat (a : Byte) : (a >>> 1).toNat = a.toNat / 2 := by
  rw [BitVec.toNat_ushiftRight, Nat.shiftRight_one]

theorem byte_shl_one_toNat (a : Byte) : (a <<< 1).toNat = a.toNat * 2 % 256 := by
  rw [BitVec.toNat_shiftLeft, Nat.shiftLeft_eq]

theorem shiftedOutRight_eq (a : Byte) : shiftedOutRight a = if a.toNat % 2 = 1 then 1#8 else 0#8 := by
  rw [shiftedOutRight, BitVec.getLsbD, Nat.testBit_zero, flagByte_decide]

theorem shiftedOutLeft_eq (a : Byte) : shiftedOutLeft a = if a.toNat ≥ 128 then 1#8 else 0#8 := by
  have hmsb : a.getLsbD 7 = decide (a.toNat ≥ 128) := a.msb_eq_getLsbD_last.symm.trans a.msb_eq_decide
  rw [shiftedOutLeft, hmsb, flagByte_decide]

/-- Settles O21: the shifted value and the bit moved out as numbers; the low nibble of the word decides, not Y. -/
theorem shiftsMoveOneBitIntoTheFlag : Obligations.ShiftsMoveOneBitIntoTheFlag := by
  refine ⟨fun x s => ⟨_, exec_shr x s, fun hx => ?_, ?_, ordinaryStep_setVFlag_complete _ _ _ _ _⟩,
    fun x s => ⟨_, exec_shl x s, fun hx => ?_, ?_, ordinaryStep_setVFlag_complete _ _ _ _ _⟩, fun x y => ⟨?_, ?_⟩⟩
  · rw [State.getV_complete, getV_setVFlag_of_ne_VF _ _ _ hx, byte_shr_one_toNat]
  · rw [State.getV_complete, getV_setVFlag_VF, shiftedOutRight_eq]
  · rw [State.getV_complete, getV_setVFlag_of_ne_VF _ _ _ hx, byte_shl_one_toNat]
  · rw [State.getV_complete, getV_setVFlag_VF, shiftedOutLeft_eq]
  all_goals simp only [decode, decodeFamily8, fieldF_wordXYN, fieldX_wordXYN, fieldN_wordXYN]

/-! ### The random byte (41_arithmetic_logic.md R133) -/

theorem exec_rnd (x : Reg) (nn : Byte) (s : State) : exec (.rnd x nn) s = .next
    ((s.consumeRand.setV x (s.nextRand &&& nn)).complete (s.pc + 2#16) .ok) := rfl

theorem byte_and_and_not (b nn : Byte) : b &&& nn &&& ~~~nn = 0#8 := by
  rw [BitVec.and_assoc, BitVec.and_not_self]
  exact BitVec.and_zero

/-- Settles O22: past the consumption of one byte the step writes one register, with the next byte masked. -/
theorem randomIsMaskedAndConsumesOneByte : Obligations.RandomIsMaskedAndConsumesOneByte := by
  refine fun x nn s => ⟨_, exec_rnd x nn s, ?_, fun b rest hs => ⟨?_, ?_⟩, fun hs => ?_, rfl,
    ordinaryStep_setV_complete s.consumeRand x _ _⟩
  · rw [getV_setV_complete, byte_and_and_not]
  · rw [getV_setV_complete, State.nextRand, hs]
  · show s.rands.tail = rest
    rw [hs, List.tail_cons]
  · show s.rands.tail = []
    rw [hs, List.tail_nil]

/-! ### Call, return and the computed jump (42_control_flow.md R142, R144, R149) -/

theorem afterStep_of_fault {s : State} {o : StepOutcome} {f : Fault} (h : o = .fault f) :
    afterStep s o = { s with result := f.result } := by
  rw [h, afterStep]

/-- Settles O24: the two sides of the push, and past it the step is a plain completion. -/
theorem callPushesTheReturnAddress : Obligations.CallPushesTheReturnAddress := by
  refine fun nnn s => ⟨fun hsp => ⟨_, exec_call_of_sp_lt nnn hsp, zextAddr_toNat nnn, rfl, ?_, fun k hk hne => ?_,
    ordinaryStep_complete _ _⟩, fun hsp => ?_⟩
  · exact Vector.getElem_set_self hsp
  · exact Vector.getElem_set_ne hsp hk hne.symm
  · have hfault := exec_call_of_sp_eq nnn hsp
    exact ⟨hfault, afterStep_of_fault hfault⟩

/-- Settles O25: the two sides of the pop; the entry is read and not written. -/
theorem returnPopsTheReturnAddress : Obligations.ReturnPopsTheReturnAddress := by
  refine fun s => ⟨fun hsp => ⟨_, exec_ret_of_sp_ne_zero hsp, ?_, rfl, ⟨?_, rfl⟩, ordinaryStep_complete _ _⟩,
    fun hsp => ?_⟩
  · show s.sp.val - 1 + 1 = s.sp.val
    omega
  · show s.sp.val - 1 < 16
    omega
  · have hfault := exec_ret_of_sp_eq_zero hsp
    exact ⟨hfault, afterStep_of_fault hfault⟩

/-- Settles O26: the return finds the depth above 0 and pops what the call pushed. -/
theorem callThenReturnComesBack : Obligations.CallThenReturnComesBack := by
  intro nnn s t h
  have hsp : s.sp.val < 16 := by
    by_contra hfull
    rw [exec_call_of_sp_eq nnn (by omega)] at h
    cases h
  rw [exec_call_of_sp_lt nnn hsp] at h
  cases h
  exact ⟨_, exec_ret_of_sp_ne_zero (Nat.succ_ne_zero _), Vector.getElem_set_self hsp, rfl⟩

/-- Settles O27: the sum of a 12-bit address and a byte fits in PC. -/
theorem computedJumpAddsV0 : Obligations.ComputedJumpAddsV0 :=
  fun nnn s => ⟨_, rfl, zextAddr_add_zextByte_toNat nnn (s.getV 0), ordinaryStep_complete s _⟩

/-! ### The index register (43_memory_index.md R161 to R163) -/

/-- Settles O30: each of the three addresses as a number, and past the write of I the step is a plain completion. -/
theorem indexRegisterIsSet : Obligations.IndexRegisterIsSet := by
  refine fun nnn x s => ⟨⟨_, rfl, zextAddr_toNat nnn, ordinaryStep_complete (s.setI _) _⟩,
    ⟨_, rfl, ?_, ordinaryStep_complete (s.setI _) _⟩, ⟨_, rfl, glyphAddr_toNat _, ordinaryStep_complete (s.setI _) _⟩⟩
  rw [State.complete_i, State.setI_i, BitVec.toNat_add, zextByte_toNat]

/-! ### Timers (45_timers.md R181 to R183) -/

theorem soundActive_iff (s : State) : s.soundActive = true ↔ s.st.toNat ≠ 0 := by
  simp [State.soundActive, ← BitVec.toNat_inj]

/-- Settles O39: the read takes DT before the tick, and the two writes are ticked in their own step. -/
theorem timerInstructionsActBeforeTheTick : Obligations.TimerInstructionsActBeforeTheTick := by
  refine fun x s => ⟨⟨_, rfl, getV_setV_complete _ _ _ _ _, ordinaryStep_setV_complete _ _ _ _⟩,
    ⟨_, rfl, tickByte_toNat _, ordinaryStep_complete (s.setDt _) _⟩,
    ⟨_, rfl, tickByte_toNat _, ?_, ordinaryStep_complete (s.setSt _) _⟩⟩
  rw [soundActive_iff, State.complete_st, State.setSt_st, tickByte_toNat]
  omega

/-! ### Keys (46_input.md R190 to R193) -/

theorem isPressed_lowNibble (s : State) (b : Byte) :
    s.isPressed (lowNibble b) = s.keys[b.toNat % 16]'(Nat.mod_lt _ (by decide)) := by
  simp only [State.isPressed, lowNibble_val]

/-- Settles O40: both are a skip on the key of the low nibble. -/
theorem skipOnKeyState : Obligations.SkipOnKeyState := by
  refine fun x s => ⟨Nat.mod_lt _ (by decide), ?_, ?_⟩
  · refine ⟨_, finishSkipIf_eq _ s, ?_⟩
    rw [isPressed_lowNibble]
    exact ordinaryStep_complete s _
  · refine ⟨_, finishSkipIf_eq _ s, ?_⟩
    rw [isPressed_lowNibble]
    simp only [Bool.not_eq_true', ← Bool.not_eq_true, ite_not]
    exact ordinaryStep_complete s _

/-- Settles O42: the scan finds the lowest set key, and the mode and one register are written. -/
theorem keyWaitReportsTheLowestKey : Obligations.KeyWaitReportsTheLowestKey := by
  intro x s k hk hset hlow
  have hscan : s.anyPressed = some ⟨k, hk⟩ := (s.anyPressed_eq_some _).2 ⟨hset, fun j hj => hlow j.val hj⟩
  refine ⟨_, exec_ldVxK_of_anyPressed_eq_some x hscan, ?_,
    ordinaryStep_setV_complete (s.setMode .running) x _ _⟩
  rw [State.getV_complete, State.getV_setMode, State.getV_setV_self, BitVec.toNat_ofNat]
  exact Nat.mod_eq_of_lt (by omega)

end Sys2Proof.Proofs

/-! PROOFS. Stores, loads and draws: the bytes of a range after a store, the registers after a load, and the cells under
a sprite in the words of the claims (43_memory_index.md R164 to R166, 44_display.md R172). -/

namespace Sys2Proof.Proofs

open Sys2Proof.Machine Sys2Proof.Safety

/-! ### Decimal digits -/

theorem bcd_digit_toNat {n : Nat} (h : n < 256) : (BitVec.ofNat 8 n).toNat = n := Nat.mod_eq_of_lt h

/-- The three digits of a byte, read back from where they were written. -/
theorem read_writeBytes_bcdDigits (m : Memory) (a : Nat) (b : Byte) :
    ((m.writeBytes a (bcdDigits b)).read a).toNat = b.toNat / 100 ∧
    ((m.writeBytes a (bcdDigits b)).read (a + 1)).toNat = b.toNat / 10 % 10 ∧
    ((m.writeBytes a (bcdDigits b)).read (a + 2)).toNat = b.toNat % 10 := by
  have hb := b.isLt
  have hdigit {k : Nat} (hk : k < 3) := read_writeBytes_add m a (bcdDigits b) (k := k) hk
  refine ⟨?_, ?_, ?_⟩
  · exact (congrArg BitVec.toNat (hdigit (k := 0) (by decide))).trans (bcd_digit_toNat (by omega))
  · exact (congrArg BitVec.toNat (hdigit (k := 1) (by decide))).trans (bcd_digit_toNat (by omega))
  · exact (congrArg BitVec.toNat (hdigit (k := 2) (by decide))).trans (bcd_digit_toNat (by omega))

/-- Settles O31: the run of three writes, read at each of its addresses and outside it. -/
theorem decimalDigitsAreStoredAtI : Obligations.DecimalDigitsAreStoredAtI := by
  refine fun x s => ⟨fun hi => ?_, exec_ldB_of_ge x⟩
  obtain ⟨hundreds, tens, ones⟩ := read_writeBytes_bcdDigits s.mem s.i.toNat (s.getV x)
  refine ⟨_, exec_ldB_of_lt x hi, hundreds, tens, ones, fun a ha => ?_, ordinaryStep_complete (s.setMem _) _⟩
  exact read_writeBytes_outside s.mem s.i.toNat _ (by rw [bcdDigits_length]; omega)

/-! ### Registers stored and loaded -/

/-- The byte that a block store leaves for each of its registers. -/
theorem read_writeBytes_regsUpTo (m : Memory) (a : Nat) (s : State) {x r : Reg} (hr : r ≤ x) :
    (m.writeBytes a (s.regsUpTo x)).read (a + r.val) = s.getV r := by
  have hlen : r.val < (s.regsUpTo x).length := by
    rw [State.regsUpTo_length]
    exact Nat.lt_succ_of_le hr
  rw [read_writeBytes_add m a _ hlen, State.regsUpTo_getElem]
  rfl

/-- Settles O32: the run of writes, read inside and outside. -/
theorem blockStoreWritesRegistersAtI : Obligations.BlockStoreWritesRegistersAtI := by
  refine fun x s => ⟨fun hi => ⟨_, exec_storeRegs_of_lt hi, fun r hr => ?_, fun a ha => ?_,
    ordinaryStep_complete (s.setMem _) _⟩, exec_storeRegs_of_ge⟩
  · exact read_writeBytes_regsUpTo s.mem s.i.toNat s hr
  · exact read_writeBytes_outside s.mem s.i.toNat _ (by rw [State.regsUpTo_length]; omega)

/-- The register file after a block load: the bytes from `a` upward in V0 to Vx, and the others as before. -/
theorem setRegs_readBytes_getElem (v : Vector Byte 16) (m : Memory) (a : Nat) (x r : Reg) :
    (setRegs v 0 (m.readBytes a (x.val + 1)))[r.val] = if r ≤ x then m.read (a + r.val) else v[r.val] := by
  rw [setRegs_getElem, Memory.readBytes_length]
  by_cases hr : r.val ≤ x.val
  · have hlt : r.val < (m.readBytes a (x.val + 1)).length := by
      rw [Memory.readBytes_length]
      omega
    rw [if_pos (by omega), if_pos (Fin.le_def.2 hr), Nat.sub_zero, List.getD_eq_getElem _ _ hlt,
      Memory.readBytes_getElem]
  · rw [if_neg (by omega), if_neg (mt Fin.le_def.1 hr)]

theorem getV_setRegs_readBytes {s : State} {x r : Reg} {m : Memory} {a : Nat} :
    ({ s with v := setRegs s.v 0 (m.readBytes a (x.val + 1)) } : State).getV r =
      if r ≤ x then m.read (a + r.val) else s.getV r := setRegs_readBytes_getElem s.v m a x r

/-- Settles O33: the bytes up to Vx, and the registers above it as before. -/
theorem blockLoadReadsRegistersFromI : Obligations.BlockLoadReadsRegistersFromI := by
  refine fun x s => ⟨fun hi => ⟨_, exec_loadRegs_of_lt hi, fun r hr => ?_,
    ordinaryStep_complete_of_keepsRegs (fun r hr => ?_) _⟩, exec_loadRegs_of_ge⟩
  · rw [State.getV_complete, getV_setRegs_readBytes, if_pos hr]
  · rw [getV_setRegs_readBytes, if_neg (by simpa using hr)]

theorem exec_storeRegs_next {x : Reg} {s t : State} (h : exec (.storeRegs x) s = .next t) :
    s.i.toNat + x.val < 4096 ∧
      t = (s.setMem (s.mem.writeBytes s.i.toNat (s.regsUpTo x))).complete (s.pc + 2#16) .ok := by
  by_cases hi : s.i.toNat + x.val < 4096
  · rw [exec_storeRegs_of_lt hi] at h
    cases h
    exact ⟨hi, rfl⟩
  · rw [exec_storeRegs_of_ge (Nat.le_of_not_lt hi)] at h
    cases h

/-- Settles O34: the load reads at I + r what the store wrote there. -/
theorem blockLoadUndoesBlockStore : Obligations.BlockLoadUndoesBlockStore := by
  intro x s t u h hmem hi
  obtain ⟨hrange, rfl⟩ := exec_storeRegs_next h
  rw [State.complete_mem, State.setMem_mem] at hmem
  rw [State.complete_i, State.setMem_i] at hi
  refine ⟨_, exec_loadRegs_of_lt (hi ▸ hrange), fun r hr => ?_⟩
  rw [State.getV_complete, getV_setRegs_readBytes, if_pos hr, hmem, hi, read_writeBytes_regsUpTo _ _ _ hr]

/-- Settles O35: the next fetch reads the two bytes at I, which are the first two of the store. -/
theorem storedInstructionIsFetchedNext : Obligations.StoredInstructionIsFetchedNext := by
  intro x s t hx hi h
  obtain ⟨hrange, rfl⟩ := exec_storeRegs_next h
  have hx1 : (1 : Reg) ≤ x := Fin.one_le_of_ne_zero hx
  have hpc : (s.pc + 2#16).toNat ≤ 4094 := by
    have : 1 ≤ x.val := hx1
    rw [← hi]
    omega
  have h0 := read_writeBytes_regsUpTo s.mem s.i.toNat s (Fin.zero_le x)
  have h1 := read_writeBytes_regsUpTo s.mem s.i.toNat s hx1
  rw [fetch_of_pc_le hpc, State.complete_mem, State.setMem_mem, State.complete_pc, ← hi]
  exact congrArg Except.ok (congrArg₂ composeWord h0 h1)

/-! ### The draw -/

/-- The cells under the sprite, in the words of the claims. -/
theorem rowsCover_iff_spriteOn (s : State) (x y : Reg) (n : BitVec 4) (py : Fin 32) (px : Fin 64) :
    rowsCover (s.getV x).toNat (s.mem.readBytes s.i.toNat n.toNat) (s.getV y).toNat py px ↔ SpriteOn s x y n py px := by
  have hbyte {r : Nat} (hr : r < n.toNat) :
      (s.mem.readBytes s.i.toNat n.toNat).getD r 0#8 = s.mem.read (s.i.toNat + r) := by
    have hlt : r < (s.mem.readBytes s.i.toNat n.toNat).length := by rwa [Memory.readBytes_length]
    rw [List.getD_eq_getElem _ _ hlt, Memory.readBytes_getElem]
  unfold rowsCover SpriteOn
  rw [Memory.readBytes_length]
  refine exists_congr fun r => exists_congr fun c => and_congr_right fun hr => ?_
  rw [hbyte hr]

theorem readBytes_length_le (m : Memory) (a : Nat) (n : BitVec 4) : (m.readBytes a n.toNat).length ≤ 32 := by
  rw [Memory.readBytes_length]
  omega

theorem drawing_cell_ne_iff (x y : Reg) (n : BitVec 4) (s : State) (py : Fin 32) (px : Fin 64) :
    (drawing x y n s).1.cell py px ≠ s.display.cell py px ↔ SpriteOn s x y n py px :=
  ((drawRows_spec _ _ _ (readBytes_length_le _ _ n) (s.display, false)).1 py px).trans
    (rowsCover_iff_spriteOn s x y n py px)

/-- The collision of R173 (c): a cell under a set sprite bit was set before. -/
def Collides (s : State) (x y : Reg) (n : BitVec 4) : Prop :=
  ∃ py px, SpriteOn s x y n py px ∧ s.display.cell py px = true

theorem drawing_collides_iff (x y : Reg) (n : BitVec 4) (s : State) :
    (drawing x y n s).2 = true ↔ Collides s x y n := by
  refine (drawRows_spec _ _ _ (readBytes_length_le _ _ n) (s.display, false)).2.trans ?_
  simp only [Bool.false_eq_true, false_or, rowsCover_iff_spriteOn, Collides]

theorem exec_drw_cell_ne_iff {x y : Reg} {n : BitVec 4} {s t : State} (h : exec (.drw x y n) s = .next t)
    (py : Fin 32) (px : Fin 64) : t.display.cell py px ≠ s.display.cell py px ↔ SpriteOn s x y n py px := by
  obtain ⟨-, rfl⟩ := exec_drw_next h
  exact drawing_cell_ne_iff x y n s py px

theorem exec_drw_flag {x y : Reg} {n : BitVec 4} {s t : State} (h : exec (.drw x y n) s = .next t) :
    (Collides s x y n → t.getV VF = 1#8) ∧ (¬ Collides s x y n → t.getV VF = 0#8) := by
  obtain ⟨-, rfl⟩ := exec_drw_next h
  rw [getV_setV_complete, ← drawing_collides_iff]
  exact ⟨fun hc => if_pos hc, fun hc => if_neg hc⟩

theorem exec_drw_flag_eq_one_iff {x y : Reg} {n : BitVec 4} {s t : State} (h : exec (.drw x y n) s = .next t) :
    t.getV VF = 1#8 ↔ Collides s x y n := by
  obtain ⟨hone, hzero⟩ := exec_drw_flag h
  refine ⟨fun hVF => ?_, hone⟩
  by_contra hc
  exact absurd ((hzero hc).symm.trans hVF) (by decide)

/-- Settles O37: the drawn grid cell by cell, the flag by the collision; past the display the step writes VF alone. -/
theorem drawInvertsExactlyTheSpriteCells : Obligations.DrawInvertsExactlyTheSpriteCells := by
  refine fun x y n s => ⟨fun hn => ?_, exec_drw_of_gt x y⟩
  have hexec := exec_drw_of_le x y hn
  obtain ⟨hone, hzero⟩ := exec_drw_flag hexec
  exact ⟨_, hexec, exec_drw_cell_ne_iff hexec, hone, hzero, ordinaryStep_setV_complete (s.setDisplay _) VF _ _⟩

/-! ### The same draw twice (44_display.md R174) -/

/-- The sprite of a draw depends on memory, I and the two coordinates alone. -/
theorem spriteOn_congr {s t : State} {x y : Reg} (hmem : t.mem = s.mem) (hi : t.i = s.i) (hx : t.getV x = s.getV x)
    (hy : t.getV y = s.getV y) (n : BitVec 4) (py : Fin 32) (px : Fin 64) :
    SpriteOn t x y n py px ↔ SpriteOn s x y n py px := by
  simp only [SpriteOn, hmem, hi, hx, hy]

/-- A sprite lies on some cell exactly when it has a set bit. -/
theorem exists_spriteOn_iff (s : State) (x y : Reg) (n : BitVec 4) : (∃ py px, SpriteOn s x y n py px) ↔
    ∃ r c, r < n.toNat ∧ c < 8 ∧ (s.mem.read (s.i.toNat + r)).getLsbD c = true := by
  constructor
  · rintro ⟨_, _, r, c, hr, -, hbit, -, -⟩
    exact ⟨r, 7 - c, hr, by omega, hbit⟩
  · rintro ⟨r, c, hr, hc, hbit⟩
    have hcol : 7 - (7 - c) = c := by omega
    refine ⟨⟨_, Nat.mod_lt _ (by decide)⟩, ⟨_, Nat.mod_lt _ (by decide)⟩, r, 7 - c, hr, by omega, ?_, rfl, rfl⟩
    rwa [hcol]

/-- A cell that two draws change alike, both or neither, is as before. -/
theorem cell_restored : ∀ before between after : Bool,
    (after ≠ between ↔ between ≠ before) → after = before := by decide

theorem cell_inverted_to_one : ∀ before after : Bool,
    (after ≠ before ∧ after = true) ↔ (before = false ∧ after = true) := by decide

/-- Settles O38: both draws invert the cells of one sprite, so the second undoes the first and collides on what it
set. -/
theorem drawTwiceRestoresTheDisplay : Obligations.DrawTwiceRestoresTheDisplay := by
  intro x y n s t h hx hy
  have hfirst := exec_drw_cell_ne_iff h
  obtain ⟨hn, hmem, hi⟩ : (n.toNat = 0 ∨ s.i.toNat + n.toNat ≤ 4096) ∧ t.mem = s.mem ∧ t.i = s.i := by
    obtain ⟨hn, rfl⟩ := exec_drw_next h
    exact ⟨hn, rfl, rfl⟩
  have hsame := spriteOn_congr hmem hi hx hy n
  have hexec := exec_drw_of_le x y (s := t) (hi ▸ hn)
  have hsecond := exec_drw_cell_ne_iff hexec
  refine ⟨_, hexec, Grid.ext_cell _ _ fun py px => ?_, ?_, fun hblank => ?_⟩
  · exact cell_restored _ _ _ (((hsecond py px).trans (hsame py px)).trans (hfirst py px).symm)
  · rw [exec_drw_flag_eq_one_iff hexec]
    refine exists_congr fun py => exists_congr fun px => ?_
    rw [hsame, ← hfirst]
    exact cell_inverted_to_one _ _
  · rw [exec_drw_flag_eq_one_iff hexec, ← exists_spriteOn_iff s x y]
    refine exists_congr fun py => exists_congr fun px => ?_
    rw [hsame, and_iff_left_iff_imp]
    intro hon
    have hset := (hfirst py px).2 hon
    rw [hblank py px hon] at hset
    exact Bool.eq_true_of_not_eq_false hset

end Sys2Proof.Proofs

/-! PROOFS. Runs and the host: the wait for a key and the end of a run, reset, the load and its window, and the host's
other events (40_step_cycle.md R106, 70_reset_and_hazards.md R230 to R246). -/

namespace Sys2Proof.Proofs

open Sys2Proof.Machine Sys2Proof.Safety

/-! ### Steps that repeat -/

theorem core_run_succ {s t : State} (hs : step s = .next t) (k : Nat) :
    Host.Core.run Sys2Proof.core (k + 1) s = Host.Core.run Sys2Proof.core k t := by
  have hcore : Sys2Proof.core.step s = .next t := hs
  simp only [Host.Core.run, hcore]

/-- Settles O43, by induction on the number of steps: a held step gives a state with the same word at
PC and no key set. -/
theorem keyWaitRepeatsWithoutProgress : Obligations.KeyWaitRepeatsWithoutProgress := by
  intro n
  induction n with
  | zero =>
    intro s op x hf hd hkeys
    exact core_run_succ ((step_of_decode hf hd).trans (keyWaitHoldsWhileNoKeyIsSet x s hkeys)) 0
  | succ n ih =>
    intro s op x hf hd hkeys
    rw [core_run_succ ((step_of_decode hf hd).trans (keyWaitHoldsWhileNoKeyIsSet x s hkeys))]
    exact ih { s with mode := .waitingForKey, result := .ok } op x hf hd hkeys

theorem endOfRun_iff (s : State) : endOfRun s = true ↔ fetch s = .ok (encode (.jp (s.pc.setWidth 12))) := by
  unfold endOfRun
  cases fetch s <;> simp

/-- A PC that can fetch fits in the operand of a jump. -/
theorem zextAddr_setWidth {p : Word} (hp : p.toNat ≤ 4094) : zextAddr (p.setWidth 12) = p := by
  apply BitVec.eq_of_toNat_eq
  rw [zextAddr_toNat, BitVec.toNat_setWidth]
  exact Nat.mod_eq_of_lt (by omega)

/-- Settles O60: the word at PC decodes to the jump it encodes, which completes with PC as it was. -/
theorem endOfRunIsStable : Obligations.EndOfRunIsStable := by
  intro s hend
  have hf := (endOfRun_iff s).1 hend
  have hstep : step s = .next (s.complete s.pc .ok) := by
    rw [step_of_decode hf (decodeOfEncodeIsIdentity _ rfl), exec_jp, zextAddr_setWidth (pc_le_of_fetch hf)]
  exact ⟨_, hstep, hend, ordinaryStep_complete s s.pc⟩

/-! ### Reset (10_state.md R45) -/

theorem unlisted_of_ge {a : Nat} (h : 80 ≤ a) : Memory.unlisted a = 0#8 :=
  List.getD_eq_default _ _ h

theorem resetEvent_atReset (s : State) : AtReset (resetEvent s) where
  font _ _ := rfl
  zero _ ha := unlisted_of_ge ha
  v r := Vector.getElem_replicate r.isLt
  i := rfl
  pc := rfl
  stack _ hk := Vector.getElem_replicate hk
  sp := rfl
  dt := rfl
  st := rfl
  display := Grid.cell_blank
  dirty := rfl
  keys _ hk := Vector.getElem_replicate hk
  mode := rfl

/-- Settles O55: State.reset is what the reset event makes of it. -/
theorem resetSetsEveryElement : Obligations.ResetSetsEveryElement :=
  ⟨resetEvent_atReset State.reset, resetEvent_atReset⟩

/-- Settles O54: empty memory is canonical, and the bounds and the wait are read off the reset values. -/
theorem resetMeetsTheInvariants : Obligations.ResetMeetsTheInvariants := by
  obtain ⟨hreset, -⟩ := resetSetsEveryElement
  refine ⟨⟨State.reset_mem_wf, rfl⟩, ⟨by rw [hreset.pc]; decide, fun k hk => ?_⟩, fun hmode => ?_⟩
  · rw [hreset.stack k hk]
    decide
  · rw [hreset.mode] at hmode
    cases hmode

/-! ### The load and its window (20_memory.md R61, R62) -/

/-- Settles O57: PC is 0x200 after a reset, where the load has written the first two bytes. -/
theorem loadedProgramIsFetchedFirst : Obligations.LoadedProgramIsFetchedFirst := by
  intro s b0 b1 rest hlen
  have hfits : (b0 :: b1 :: rest).length ≤ 3584 := hlen
  rw [load_of_fits hfits]
  generalize hm : (resetEvent s).mem.writeBytes 0x200 (b0 :: b1 :: rest) = m
  have h0 : m.read 0x200 = b0 := hm ▸ read_writeBytes_add _ 0x200 (b0 :: b1 :: rest) (k := 0) (by simp)
  have h1 : m.read 0x201 = b1 := hm ▸ read_writeBytes_add _ 0x200 (b0 :: b1 :: rest) (k := 1) (by simp)
  have hpc : ((resetEvent s).setMem m).pc.toNat ≤ 4094 := by
    rw [State.setMem_pc, (resetEvent_atReset s).pc]
    decide
  rw [fetch_of_pc_le hpc]
  exact congrArg Except.ok (congrArg₂ composeWord h0 h1)

theorem act_load_of_open {h : Session} (ho : h.loadOpen = true) (bytes : List Byte) : h.act (.load bytes) =
    .next { core := (load h.core bytes).2, loadOpen := false, lastLoad := some (load h.core bytes).1 } := if_pos ho

theorem act_load_of_closed {h : Session} (ho : h.loadOpen = false) (bytes : List Byte) :
    h.act (.load bytes) = .refused .loadOutsideWindow := if_neg (by simp [ho])

theorem act_load_next {h h' : Session} {bytes : List Byte} (hact : h.act (.load bytes) = .next h') :
    h'.loadOpen = false := by
  cases ho : h.loadOpen with
  | true =>
    rw [act_load_of_open ho] at hact
    cases hact
    rfl
  | false =>
    rw [act_load_of_closed ho] at hact
    cases hact

/-- No event but a reset opens the window. -/
theorem act_keeps_closed {h h' : Session} {e : HostEvent} (ho : h.loadOpen = false) (he : e ≠ .reset)
    (hact : h.act e = .next h') : h'.loadOpen = false := by
  cases e with
  | reset => exact absurd rfl he
  | load bytes => exact act_load_next hact
  | step =>
    cases hact
    rfl
  | clearDirty | supplyRand =>
    cases hact
    exact ho
  | setKey index pressed =>
    simp only [Session.act] at hact
    split at hact <;> cases hact
    exact ho

/-- Settles O58: the equations of a load, and what each event does to the window. -/
theorem loadIsAdmittedOnceInItsWindow : Obligations.LoadIsAdmittedOnceInItsWindow := by
  refine ⟨fun h ho bytes => ⟨_, act_load_of_open ho bytes, rfl, rfl⟩, fun h e h' hact he => ?_,
    fun h ho => ⟨act_load_of_closed ho, fun e h' => act_keeps_closed ho⟩, fun h => ⟨_, rfl, rfl⟩⟩
  obtain rfl | ⟨bytes, rfl⟩ := he
  · cases hact
    rfl
  · exact act_load_next hact

/-! ### The host's other events (10_state.md R38, R40; 70_reset_and_hazards.md R240) -/

theorem setKey_of_lt (s : State) {index : Nat} (h : index < 16) (p : Bool) :
    setKey s index p = .next { s with keys := s.keys.set index p h } := dif_pos h

theorem setKey_of_ge (s : State) {index : Nat} (h : 16 ≤ index) (p : Bool) :
    setKey s index p = .refused (.keyIndexOutOfRange index) := dif_neg (Nat.not_lt.2 h)

/-- Settles O59: the two branches of set_key, and the two events that write their element in every state. -/
theorem setKeyClearDirtyAndSupplyRandWriteOneElement : Obligations.SetKeyClearDirtyAndSupplyRandWriteOneElement :=
  ⟨fun s _ p => ⟨fun h => ⟨_, setKey_of_lt s h p, Vector.getElem_set_self h,
      fun _ hk hne => Vector.getElem_set_ne h hk hne.symm, rfl⟩, fun h => setKey_of_ge s h p⟩,
    fun _ => ⟨rfl, rfl⟩, fun _ _ => ⟨rfl, rfl⟩⟩

end Sys2Proof.Proofs
